-- ==== Sys2Proof/Word.lean ====
section
/-!
DEFINITION. The widths the spec gives its values (10_state.md, 20_memory.md rule R70, 30_encoding.md rule R100).
Every value is an unsigned bit vector of stated width (R8).
-/

namespace Sys2Proof

/-- A byte: a register, a data symbol or a cell of host memory (R70, R80). -/
abbrev Byte := BitVec 8

/-- A command word (R100). -/
abbrev Word := BitVec 64

/-- A host buffer address as a command word carries it (R49(a), R103). -/
abbrev Addr := BitVec 16

/-- An opaque function reference, handed to the host at a dispatch and never dereferenced (R48). -/
abbrev FnRef := BitVec 16

/-- An 11-bit EEPROM logical address (R49(c), R241). -/
abbrev EepromAddr := BitVec 11

end Sys2Proof
end

