-- ==== Sys2Proof/Config.lean ====
section
/-!
DEFINITION. What an implementation fixes (the parameters of 00_scope.md rule R5) and the free values of the model.

The OPEN parameters of rule R5 are one record of plain data, `Params`. State holds it in a field that no step
writes, so that a statement about every state is a statement about every choice of the parameters (log entry 2).
The free values are opaque constants: nothing in Lean can evaluate one or prove what it is (log entry 3).
-/

namespace Sys2Proof

/-- The three interrupt sources (R265). -/
inductive Machine.IrqSource where
  | uartTx
  | uartRx
  | spiTc
deriving DecidableEq, Repr

/-- The parameters that 00_scope.md rule R5 marks OPEN, but for `EE_DEVICE` (the environment). -/
structure Params where
  /-- `F_CLK`, in Hz; a positive integer. -/
  fClk : Nat
  /-- `SPI_INT_EN`. -/
  spiIntEn : Bool
  /-- `SPI_DORD`: false is most significant bit first. -/
  spiDord : Bool
  /-- `SPI_CPOL`: false is a clock that idles low. -/
  spiCpol : Bool
  /-- `SPI_CLKDIV`, an opaque value (R5, R34) of at most 8 bits (R80). That it has all eight: log entry 2. -/
  spiClkdiv : Byte
  /-- `SPI_2X`. -/
  spi2x : Bool
  /-- `ST_START`. -/
  stStart : Byte
  /-- `ST_REP_START`. -/
  stRepStart : Byte
  /-- `ST_MT_SLA_ACK`. -/
  stMtSlaAck : Byte
  /-- `ST_MR_SLA_ACK`. -/
  stMrSlaAck : Byte
  /-- `ST_MT_DATA_ACK`. -/
  stMtDataAck : Byte
  /-- `ST_MR_DATA_ACK`. -/
  stMrDataAck : Byte
  /-- `ST_MR_DATA_NACK`. -/
  stMrDataNack : Byte
  /-- `EE_LOCAL_ADDR`, 0 to 127. -/
  eeLocalAddr : BitVec 7
  /-- `IRQ_ORDER` (R269): the pairs of sources of which the first is taken before the second when both are pending; with
  no pair any pending source may be taken. That an order is such a list: DESIGN CHOICE, log entry 33. -/
  irqFirst : List (Machine.IrqSource × Machine.IrqSource)
  /-- `EE_BUSY` (R254): the reference device has a write time, during which it may decline its select byte. -/
  eeBusy : Bool
deriving DecidableEq, Repr

/-- The seven bus status codes, in the order of rule R201. -/
def Params.codes (p : Params) : List Byte :=
  [p.stStart, p.stRepStart, p.stMtSlaAck, p.stMrSlaAck, p.stMtDataAck, p.stMrDataAck, p.stMrDataNack]

/-- What rule R5 asks of the parameters: a positive clock, and seven pairwise distinct codes whose bits [2:0] are
zero. -/
def Params.wf (p : Params) : Bool :=
  decide (0 < p.fClk) && p.codes.all (fun c => c &&& 0x07 == 0) && decide p.codes.Nodup

/-- `IRQ_ORDER` has the first source taken before the second. -/
def Params.takesFirst (p : Params) (first second : Machine.IrqSource) : Bool := p.irqFirst.contains (first, second)

/-- What makes `IRQ_ORDER` an order: no source is to be taken before itself, be it by way of one or two others, so that of
any pending sources one may be taken (R269, R272). -/
def Params.orderWf (p : Params) : Bool :=
  let sources : List Machine.IrqSource := [.uartTx, .uartRx, .spiTc]
  sources.all fun a => !p.takesFirst a a &&
    sources.all fun b => !(p.takesFirst a b && p.takesFirst b a) &&
      sources.all fun c => !(p.takesFirst a b && p.takesFirst b c && p.takesFirst c a)

/-- The values rule R5 suggests, and its default for `IRQ_ORDER`; where it suggests none (the SPI constants, `EE_LOCAL_ADDR`), zero. DESIGN CHOICE,
log entry 2: the parameters the reset state carries. -/
def Params.suggested : Params where
  fClk := 8000000
  spiIntEn := false
  spiDord := false
  spiCpol := false
  spiClkdiv := 0
  spi2x := false
  stStart := 0x08
  stRepStart := 0x10
  stMtSlaAck := 0x18
  stMrSlaAck := 0x40
  stMtDataAck := 0x28
  stMrDataAck := 0x50
  stMrDataNack := 0x58
  eeLocalAddr := 0
  irqFirst := []
  eeBusy := false

/-- `EE_SEL_BASE` (R5), fixed. -/
def Config.eeSelBase : Byte := 0xA0

/-- `RES_OK` (R5, R22), fixed by decision. -/
def Config.resOk : BitVec 1 := 0

/-- `RES_ERROR` (R5, R22), fixed by decision. -/
def Config.resError : BitVec 1 := 1

/-- The number of bytes of host buffer memory (R70). -/
def Config.memSize : Nat := 0x10000

/-- `EE_SIZE` (R5), fixed. -/
def Config.eeSize : Nat := 2048

/-- What a byte of host buffer memory that nothing has written reads as. DESIGN CHOICE, log entry 5. -/
def Config.memBlank : Byte := 0x00

/-- What a byte of the reference device's memory that nothing has written reads as (the start state of program P2,
95_test_vectors.md). DESIGN CHOICE, log entry 6. -/
def Config.eeBlank : Byte := 0xFF

/-- FREE VALUE: the 5-bit status code that rules R202, R216 and R226 draw, at the n-th draw of the run. -/
opaque Config.drawCode : Nat → BitVec 5

/-- FREE VALUE: the 8-bit value that rule R225 draws after a failed read, and the byte a read gives when no device
drives the lines, at the n-th draw of the run. -/
opaque Config.drawByte : Nat → Byte

/-- FREE VALUE: the reference device's memory, address by address, after a second data byte in one write transaction
(R254, 93_implementation_defined.md U22: any value of device state), at the n-th draw of the run. -/
opaque Config.drawEeprom : Nat → Nat → Byte

/-- FREE VALUE: the reference device's address pointer after a second data byte (R254, U22). -/
opaque Config.drawPointer : Nat → EepromAddr

/-- FREE VALUE: the reference device's protocol state after a second data byte (R254, U22), as a number that
`Sys2Proof.Machine.devPhaseOf` reads. -/
opaque Config.drawDevPhase : Nat → BitVec 3

/-- FREE VALUE: how many transactions the reference device may decline after the stop that ends a data write (R254,
`EE_BUSY`: finite, unspecified), and the same count after a second data byte (U22), at the n-th draw of the run. -/
opaque Config.drawDeclines : Nat → Nat

/-- FREE VALUE: whether the reference device acknowledges a second data byte (R254, U22). -/
opaque Config.drawAck : Nat → Bool

end Sys2Proof
end

