-- ==== Sys2Proof/Syntax.lean ====
section
/-!
DEFINITION. The commands of the block, one constructor per row of the opcode table (30_encoding.md rule R110),
with the operand fields of its format (R101 to R108). A field that rule R114 reserves a value of keeps its full
width here, so that an ill-formed command is a term; Sys2Proof/WellFormed.lean says which commands are legal.
-/

namespace Sys2Proof

/-- A command, as its row of the opcode table spells its operands. -/
inductive Instr where
  /-- `IRET`, format Z (R275). -/
  | iret
  /-- `UART_INIT`, format U (R104, R132). -/
  | uartInit (baud : BitVec 32) (safe : Byte) (par : BitVec 2) (wlen : BitVec 2) (txm rxm rate : Bool)
  /-- `UART_SEND`, format B (R135). -/
  | uartSend (b : Byte)
  /-- `UART_RECV`, format Z (R138). -/
  | uartRecv
  /-- `UART_SENDS`, format P (R142). -/
  | uartSends (ptr : Addr)
  /-- `UART_RECVS`, format P (R145). -/
  | uartRecvs (ptr : Addr)
  /-- `UART_SETCB`, format C (R148): `dir` false is the TX slot, `reg` is the bit the spec calls `some`. -/
  | uartSetcb (dir reg : Bool) (fn : FnRef)
  /-- `SPI_INITM`, format Z (R172). -/
  | spiInitm
  /-- `SPI_INITS`, format Z (R173). -/
  | spiInits
  /-- `SPI_SEND`, format B (R175). -/
  | spiSend (b : Byte)
  /-- `SPI_RECV`, format Z (R177). -/
  | spiRecv
  /-- `SPI_SENDS`, format P (R180). -/
  | spiSends (ptr : Addr)
  /-- `SPI_RECVS`, format P (R182). -/
  | spiRecvs (ptr : Addr)
  /-- `SPI_SETCB`, format C with `dir` = 0 (R184). -/
  | spiSetcb (dir reg : Bool) (fn : FnRef)
  /-- `I2C_INIT`, format T (R105, R202). -/
  | i2cInit (tier : BitVec 2) (addr7 : BitVec 7)
  /-- `I2C_START`, format Z (R208). -/
  | i2cStart
  /-- `I2C_WRITE`, format B (R210). -/
  | i2cWrite (b : Byte)
  /-- `I2C_RDACK`, format Z (R212). -/
  | i2cRdack
  /-- `I2C_RDNACK`, format Z (R213). -/
  | i2cRdnack
  /-- `I2C_STOP`, format Z (R216). -/
  | i2cStop
  /-- `I2C_STATUS`, format Z (R218). -/
  | i2cStatus
  /-- `EE_INIT`, format Z (R242). -/
  | eeInit
  /-- `EE_WRITE`, format W (R107, R244). -/
  | eeWrite (ea : EepromAddr) (data : Byte)
  /-- `EE_READ`, format R (R108, R246). -/
  | eeRead (ea : EepromAddr) (out : Addr)
deriving DecidableEq, Repr

/-- The pseudo-instruction `UART_CLRCB dir` (R118). -/
def Instr.uartClrcb (dir : Bool) : Instr := .uartSetcb dir false 0

/-- The pseudo-instruction `SPI_CLRCB` (R118). -/
def Instr.spiClrcb : Instr := .spiSetcb false false 0

end Sys2Proof
end

