-- ==== Sys2Proof/WellFormed.lean ====
section
/-!
DEFINITION. Which commands are legal: the reserved field values of 30_encoding.md rule R114, which decode and are
illegal all the same. The reserved opcodes and the reserved bits of rules R112 and R113 are the decoder's.
-/

namespace Sys2Proof

/-- The command holds no reserved field value (R114): `par` = 3 or `baud` = 0 in `UART_INIT`, `dir` = 1 in
`SPI_SETCB`, `tier` = 3 in `I2C_INIT`. -/
def Instr.wellFormed : Instr → Bool
  | .iret => true
  | .uartInit baud _ par _ _ _ _ => par != 3 && baud != 0
  | .uartSend _ => true
  | .uartRecv => true
  | .uartSends _ => true
  | .uartRecvs _ => true
  | .uartSetcb _ _ _ => true
  | .spiInitm => true
  | .spiInits => true
  | .spiSend _ => true
  | .spiRecv => true
  | .spiSends _ => true
  | .spiRecvs _ => true
  | .spiSetcb dir _ _ => !dir
  | .i2cInit tier _ => tier != 3
  | .i2cStart => true
  | .i2cWrite _ => true
  | .i2cRdack => true
  | .i2cRdnack => true
  | .i2cStop => true
  | .i2cStatus => true
  | .eeInit => true
  | .eeWrite _ _ => true
  | .eeRead _ _ => true

end Sys2Proof
end

