-- ==== Sys2Proof/Decode.lean ====
section
/-!
DEFINITION. The command encoding of 30_encoding.md: the fields of the eight formats (R100 to R108), the decoder
(R110, R112, R113, R116), the encoder, and the little-endian byte form of a command word (20_memory.md rule R78).
-/

namespace Sys2Proof

/-- Why a word, or a list of bytes, is no command. -/
inductive DecodeError where
  /-- The opcode is not in the table (R113). -/
  | reservedOpcode
  /-- A bit that the format does not name is 1 (R112). -/
  | reservedBits
  /-- Fewer bytes than the one command length, 64 bits (R116). -/
  | truncated
deriving DecidableEq, Repr

/-- The opcode, bits [63:56] (R100). -/
def opcodeOf (w : Word) : BitVec 8 := w.extractLsb' 56 8

/-- Accept the operands only if the reserved bits are all zero (R100, R112). -/
def ifReservedZero (zero : Bool) (i : Instr) : Except DecodeError Instr :=
  if zero then .ok i else .error .reservedBits

/-- Format Z: no operand, bits [55:0] reserved (R101). -/
def formatZ (w : Word) (i : Instr) : Except DecodeError Instr :=
  ifReservedZero (w.extractLsb' 0 56 == 0) i

/-- Format B: `imm8` = [7:0], bits [55:8] reserved (R102). -/
def formatB (w : Word) (mk : Byte → Instr) : Except DecodeError Instr :=
  ifReservedZero (w.extractLsb' 8 48 == 0) (mk (w.extractLsb' 0 8))

/-- Format P: `ptr` = [15:0], bits [55:16] reserved (R103). -/
def formatP (w : Word) (mk : Addr → Instr) : Except DecodeError Instr :=
  ifReservedZero (w.extractLsb' 16 40 == 0) (mk (w.extractLsb' 0 16))

/-- Format U: the UART configuration, bits [55:47] reserved (R104). -/
def formatU (w : Word)
    (mk : BitVec 32 → Byte → BitVec 2 → BitVec 2 → Bool → Bool → Bool → Instr) : Except DecodeError Instr :=
  ifReservedZero (w.extractLsb' 47 9 == 0)
    (mk (w.extractLsb' 0 32) (w.extractLsb' 32 8) (w.extractLsb' 40 2) (w.extractLsb' 42 2)
      (w.getLsbD 44) (w.getLsbD 45) (w.getLsbD 46))

/-- Format T: `addr7` = [6:0], bit [7] reserved, `tier` = [9:8], bits [55:10] reserved (R105). -/
def formatT (w : Word) (mk : BitVec 2 → BitVec 7 → Instr) : Except DecodeError Instr :=
  ifReservedZero (!w.getLsbD 7 && w.extractLsb' 10 46 == 0) (mk (w.extractLsb' 8 2) (w.extractLsb' 0 7))

/-- Format C: `fn` = [15:0], `dir` = [16], `some` = [17], bits [55:18] reserved (R106). -/
def formatC (w : Word) (mk : Bool → Bool → FnRef → Instr) : Except DecodeError Instr :=
  ifReservedZero (w.extractLsb' 18 38 == 0) (mk (w.getLsbD 16) (w.getLsbD 17) (w.extractLsb' 0 16))

/-- Format W: `ea` = [10:0], bits [15:11] reserved, `data` = [23:16], bits [55:24] reserved (R107). -/
def formatW (w : Word) (mk : EepromAddr → Byte → Instr) : Except DecodeError Instr :=
  ifReservedZero (w.extractLsb' 11 5 == 0 && w.extractLsb' 24 32 == 0)
    (mk (w.extractLsb' 0 11) (w.extractLsb' 16 8))

/-- Format R: `ea` = [10:0], bits [15:11] reserved, `out` = [31:16], bits [55:32] reserved (R108). -/
def formatR (w : Word) (mk : EepromAddr → Addr → Instr) : Except DecodeError Instr :=
  ifReservedZero (w.extractLsb' 11 5 == 0 && w.extractLsb' 32 24 == 0)
    (mk (w.extractLsb' 0 11) (w.extractLsb' 16 16))

/-- The row of the opcode table that the word decodes to (R110), or why there is none. A word with a reserved field
value (R114) decodes here; `legalCommand` is the decoder with that check. -/
def decode (w : Word) : Except DecodeError Instr :=
  match (opcodeOf w).toNat with
  | 0x01 => formatZ w .iret
  | 0x10 => formatU w .uartInit
  | 0x11 => formatB w .uartSend
  | 0x12 => formatZ w .uartRecv
  | 0x13 => formatP w .uartSends
  | 0x14 => formatP w .uartRecvs
  | 0x15 => formatC w .uartSetcb
  | 0x20 => formatZ w .spiInitm
  | 0x21 => formatZ w .spiInits
  | 0x22 => formatB w .spiSend
  | 0x23 => formatZ w .spiRecv
  | 0x24 => formatP w .spiSends
  | 0x25 => formatP w .spiRecvs
  | 0x26 => formatC w .spiSetcb
  | 0x30 => formatT w .i2cInit
  | 0x31 => formatZ w .i2cStart
  | 0x32 => formatB w .i2cWrite
  | 0x33 => formatZ w .i2cRdack
  | 0x34 => formatZ w .i2cRdnack
  | 0x35 => formatZ w .i2cStop
  | 0x36 => formatZ w .i2cStatus
  | 0x40 => formatZ w .eeInit
  | 0x41 => formatW w .eeWrite
  | 0x42 => formatR w .eeRead
  | _ => .error .reservedOpcode

/-- The command a word stands for, if it stands for one: its row, if no field of it holds a reserved value. `none` is
the verdict "illegal" (R114, R116). -/
def legalCommand (w : Word) : Option Instr :=
  match decode w with
  | .ok i => if i.wellFormed then some i else none
  | .error _ => none

/-! ### The encoder

A command word is the opcode at bits [63:56] plus each field at its place, every other bit zero. -/

/-- Format Z (R101). -/
def encodeZ (op : Nat) : Word := BitVec.ofNat 64 (op * 2 ^ 56)

/-- Format B (R102). -/
def encodeB (op : Nat) (imm8 : Byte) : Word := BitVec.ofNat 64 (op * 2 ^ 56 + imm8.toNat)

/-- Format P (R103). -/
def encodeP (op : Nat) (ptr : Addr) : Word := BitVec.ofNat 64 (op * 2 ^ 56 + ptr.toNat)

/-- Format U (R104). -/
def encodeU (op : Nat) (baud : BitVec 32) (safe : Byte) (par wlen : BitVec 2) (txm rxm rate : Bool) : Word :=
  BitVec.ofNat 64 (op * 2 ^ 56 + rate.toNat * 2 ^ 46 + rxm.toNat * 2 ^ 45 + txm.toNat * 2 ^ 44 +
    wlen.toNat * 2 ^ 42 + par.toNat * 2 ^ 40 + safe.toNat * 2 ^ 32 + baud.toNat)

/-- Format T (R105). -/
def encodeT (op : Nat) (tier : BitVec 2) (addr7 : BitVec 7) : Word :=
  BitVec.ofNat 64 (op * 2 ^ 56 + tier.toNat * 2 ^ 8 + addr7.toNat)

/-- Format C (R106). -/
def encodeC (op : Nat) (dir reg : Bool) (fn : FnRef) : Word :=
  BitVec.ofNat 64 (op * 2 ^ 56 + reg.toNat * 2 ^ 17 + dir.toNat * 2 ^ 16 + fn.toNat)

/-- Format W (R107). -/
def encodeW (op : Nat) (ea : EepromAddr) (data : Byte) : Word :=
  BitVec.ofNat 64 (op * 2 ^ 56 + data.toNat * 2 ^ 16 + ea.toNat)

/-- Format R (R108). -/
def encodeR (op : Nat) (ea : EepromAddr) (out : Addr) : Word :=
  BitVec.ofNat 64 (op * 2 ^ 56 + out.toNat * 2 ^ 16 + ea.toNat)

/-- The command word of a command (R100 to R110). -/
def encode : Instr → Word
  | .iret => encodeZ 0x01
  | .uartInit baud safe par wlen txm rxm rate => encodeU 0x10 baud safe par wlen txm rxm rate
  | .uartSend b => encodeB 0x11 b
  | .uartRecv => encodeZ 0x12
  | .uartSends ptr => encodeP 0x13 ptr
  | .uartRecvs ptr => encodeP 0x14 ptr
  | .uartSetcb dir reg fn => encodeC 0x15 dir reg fn
  | .spiInitm => encodeZ 0x20
  | .spiInits => encodeZ 0x21
  | .spiSend b => encodeB 0x22 b
  | .spiRecv => encodeZ 0x23
  | .spiSends ptr => encodeP 0x24 ptr
  | .spiRecvs ptr => encodeP 0x25 ptr
  | .spiSetcb dir reg fn => encodeC 0x26 dir reg fn
  | .i2cInit tier addr7 => encodeT 0x30 tier addr7
  | .i2cStart => encodeZ 0x31
  | .i2cWrite b => encodeB 0x32 b
  | .i2cRdack => encodeZ 0x33
  | .i2cRdnack => encodeZ 0x34
  | .i2cStop => encodeZ 0x35
  | .i2cStatus => encodeZ 0x36
  | .eeInit => encodeZ 0x40
  | .eeWrite ea data => encodeW 0x41 ea data
  | .eeRead ea out => encodeR 0x42 ea out

/-! ### The opcode map of rule R110, as rows of `match` and `mask` -/

/-- A row of the opcode table: a word belongs to it exactly when `word AND mask = match` (R110). -/
structure Row where
  mnemonic : String
  pattern : Word
  mask : Word
deriving DecidableEq, Repr

/-- The word belongs to the row (R110). -/
def Row.holds (r : Row) (w : Word) : Bool := w &&& r.mask == r.pattern

/-- The mask of format Z. -/
def maskZ : Word := 0xFFFFFFFFFFFFFFFF
/-- The mask of format B. -/
def maskB : Word := 0xFFFFFFFFFFFFFF00
/-- The mask of format P. -/
def maskP : Word := 0xFFFFFFFFFFFF0000
/-- The mask of format U. -/
def maskU : Word := 0xFFFF800000000000
/-- The mask of format T. -/
def maskT : Word := 0xFFFFFFFFFFFFFC80
/-- The mask of format C. -/
def maskC : Word := 0xFFFFFFFFFFFC0000
/-- The mask of format W. -/
def maskW : Word := 0xFFFFFFFFFF00F800
/-- The mask of format R. -/
def maskR : Word := 0xFFFFFFFF0000F800

/-- The row of a command (R110; opcode_table.json). -/
def rowOf : Instr → Row
  | .iret => ⟨"IRET", 0x0100000000000000, maskZ⟩
  | .uartInit _ _ _ _ _ _ _ => ⟨"UART_INIT", 0x1000000000000000, maskU⟩
  | .uartSend _ => ⟨"UART_SEND", 0x1100000000000000, maskB⟩
  | .uartRecv => ⟨"UART_RECV", 0x1200000000000000, maskZ⟩
  | .uartSends _ => ⟨"UART_SENDS", 0x1300000000000000, maskP⟩
  | .uartRecvs _ => ⟨"UART_RECVS", 0x1400000000000000, maskP⟩
  | .uartSetcb _ _ _ => ⟨"UART_SETCB", 0x1500000000000000, maskC⟩
  | .spiInitm => ⟨"SPI_INITM", 0x2000000000000000, maskZ⟩
  | .spiInits => ⟨"SPI_INITS", 0x2100000000000000, maskZ⟩
  | .spiSend _ => ⟨"SPI_SEND", 0x2200000000000000, maskB⟩
  | .spiRecv => ⟨"SPI_RECV", 0x2300000000000000, maskZ⟩
  | .spiSends _ => ⟨"SPI_SENDS", 0x2400000000000000, maskP⟩
  | .spiRecvs _ => ⟨"SPI_RECVS", 0x2500000000000000, maskP⟩
  | .spiSetcb _ _ _ => ⟨"SPI_SETCB", 0x2600000000000000, maskC⟩
  | .i2cInit _ _ => ⟨"I2C_INIT", 0x3000000000000000, maskT⟩
  | .i2cStart => ⟨"I2C_START", 0x3100000000000000, maskZ⟩
  | .i2cWrite _ => ⟨"I2C_WRITE", 0x3200000000000000, maskB⟩
  | .i2cRdack => ⟨"I2C_RDACK", 0x3300000000000000, maskZ⟩
  | .i2cRdnack => ⟨"I2C_RDNACK", 0x3400000000000000, maskZ⟩
  | .i2cStop => ⟨"I2C_STOP", 0x3500000000000000, maskZ⟩
  | .i2cStatus => ⟨"I2C_STATUS", 0x3600000000000000, maskZ⟩
  | .eeInit => ⟨"EE_INIT", 0x4000000000000000, maskZ⟩
  | .eeWrite _ _ => ⟨"EE_WRITE", 0x4100000000000000, maskW⟩
  | .eeRead _ _ => ⟨"EE_READ", 0x4200000000000000, maskR⟩

/-- The 24 rows of the opcode table, in its order (R110). -/
def opcodeTable : List Row :=
  [rowOf .iret, rowOf (.uartInit 1 0 0 0 false false false), rowOf (.uartSend 0), rowOf .uartRecv,
    rowOf (.uartSends 0), rowOf (.uartRecvs 0), rowOf (.uartSetcb false false 0),
    rowOf .spiInitm, rowOf .spiInits, rowOf (.spiSend 0), rowOf .spiRecv, rowOf (.spiSends 0), rowOf (.spiRecvs 0),
    rowOf (.spiSetcb false false 0), rowOf (.i2cInit 0 0), rowOf .i2cStart, rowOf (.i2cWrite 0), rowOf .i2cRdack,
    rowOf .i2cRdnack, rowOf .i2cStop, rowOf .i2cStatus, rowOf .eeInit, rowOf (.eeWrite 0 0), rowOf (.eeRead 0 0)]

/-! ### Command words stored as bytes (20_memory.md rule R78) -/

/-- The eight bytes of a command word, byte 0 first: byte 0 is bits [7:0] (R78). -/
def wordBytes (w : Word) : List Byte :=
  (List.range 8).map fun k => w.extractLsb' (8 * k) 8

/-- The command word whose stored bytes begin the list, and the bytes after it (R78). -/
def wordOfBytes : List Byte → Except DecodeError (Word × List Byte)
  | b0 :: b1 :: b2 :: b3 :: b4 :: b5 :: b6 :: b7 :: rest =>
    .ok (BitVec.ofNat 64 (b0.toNat + 2 ^ 8 * b1.toNat + 2 ^ 16 * b2.toNat + 2 ^ 24 * b3.toNat + 2 ^ 32 * b4.toNat +
      2 ^ 40 * b5.toNat + 2 ^ 48 * b6.toNat + 2 ^ 56 * b7.toNat), rest)
  | _ => .error .truncated

/-- Decode the command that a list of stored bytes begins with, and give the bytes after it (R78, R116). -/
def decodeBytes (bs : List Byte) : Except DecodeError (Instr × List Byte) :=
  match wordOfBytes bs with
  | .error e => .error e
  | .ok (w, rest) =>
    match decode w with
    | .error e => .error e
    | .ok i => .ok (i, rest)

/-- The instruction the decoder reads from the `nbits` bits `w`, every bit above them zero: the word is laid out as the
host stores it, byte 0 first, and given to `decodeBytes`. -/
def decodeTableWord (nbits w : Nat) : Option Instr :=
  match decodeBytes (wordBytes (BitVec.ofNat 64 (w % 2 ^ nbits))) with
  | .ok (i, _) => some i
  | .error _ => none

end Sys2Proof
end

