-- ==== Sys2Proof/Machine/State.lean ====
section
/-!
DEFINITION. The state of the block and of what it is wired to (10_state.md, 44_eeprom.md rule R254), as plain data,
the reasons a step can stop, and the state after reset (R56).

Every field of the spec stands in the unit that the spec gives it, under the spec's name. The model's own fields are
`params` (the parameters of R5), `draws` (the count of free values drawn), `turns` (the schedule: which agent moves next
and what the environment supplies, log entry 1), `looped` (the loopback LINE of R156), `Device.stored` and
`Device.declinesLeft`.
-/

namespace Sys2Proof.Machine

/-! ### Names -/

/-- The two execution contexts (R23). -/
inductive Ctx where
  | fg
  | isr
deriving DecidableEq, Repr

/-- The direction of an SPI line (R35). The constructors stand for `in` and `out`. -/
inductive LineDir where
  | input
  | output
deriving DecidableEq, Repr

/-- The role under which an exchange was recorded (R51). -/
inductive SpiRole where
  | master
  | slave
deriving DecidableEq, Repr

/-- The operation handed to I2B (R43). -/
inductive I2cOp where
  | start
  | write
  | readAck
  | readNack
deriving DecidableEq, Repr

/-- The protocol phase of the I2C unit (R44). -/
inductive I2cPhase where
  | idle
  | addr
  | mt
  | mr
  | mrEnd
  | fail
deriving DecidableEq, Repr

/-- An acknowledge bit as the bus history records it (R51). -/
inductive Ack where
  | a
  | n
deriving DecidableEq, Repr

/-- What became of a frame offered by LINE (R51). -/
inductive RxVerdict where
  | accepted
  | dropped
  | ignored
deriving DecidableEq, Repr

/-- The protocol state of the reference device (R254). -/
inductive DevPhase where
  | idle
  | sel
  | addrW
  | dataW
  | selR
deriving DecidableEq, Repr

/-! ### Memory -/

/-- Bytes by address, in one canonical form: `Memory.wf` (Machine/Ops.lean). An address that is not listed reads as
the blank byte of its memory (`Config.memBlank`, `Config.eeBlank`). -/
abbrev Memory := List Host.Cell

/-! ### Event histories (R51) -/

/-- A frame on `UART.TXLINE`: word length, parity mode, data bits, and the parity bit, absent when par = none. -/
structure TxFrame where
  w : Nat
  par : BitVec 2
  d : Byte
  p : Option Bool
deriving DecidableEq, Repr

/-- A frame offered by LINE, on `UART.RXLOG`: `stop` is the sampled stop bit. -/
structure RxRecord where
  d : Byte
  p : Option Bool
  stop : Bool
  verdict : RxVerdict
deriving DecidableEq, Repr

/-- An exchange on `SPI.WIRE`: `sent` and `got` stand for the spec's `out` and `in`. -/
structure SpiExchange where
  role : SpiRole
  sent : Byte
  got : Byte
deriving DecidableEq, Repr

/-- An event on `I2C.BUS`. -/
inductive BusEvent where
  | start
  | repStart
  | addr (b : Byte) (k : Ack)
  | data (b : Byte) (k : Ack)
  | read (b : Byte) (k : Ack)
  | stop
  | fault
  | reinit
deriving DecidableEq, Repr

/-! ### The command interface (R20 to R25) -/

/-- The command in flight in a context, `CUR[c]` (R24). -/
structure InFlight where
  /-- The 64-bit command. -/
  word : Word
  /-- The micro-phase: the label u0, u1, ... of the command's rule. -/
  uph : Nat
  /-- The string pointer, 0 to 0x10000. -/
  sp : Nat
  /-- The remaining byte count. -/
  sn : Byte
  /-- The payload length. -/
  si : Byte
  /-- Scratch. -/
  tmp : Byte
deriving DecidableEq, Repr

/-- What is banked per context: `RET[c]`, `RES[c]`, `CUR[c]` (R21, R22, R24). -/
structure Bank where
  ret : Byte
  res : BitVec 1
  cur : Option InFlight
deriving DecidableEq, Repr

/-! ### The units -/

/-- Unit UART (R26 to R33, R48, R51). -/
structure Uart where
  inited : Bool
  txen : Bool
  rxen : Bool
  txie : Bool
  rxie : Bool
  /-- Rate multiplier: false is normal, true double. Stored, read by no rule (90_conflicts.md C1). -/
  rate : Bool
  /-- Transmit mode: false is polling, true interrupt. -/
  txm : Bool
  /-- Receive mode, same coding. -/
  rxm : Bool
  /-- Parity: 0 none, 1 odd, 2 even, 3 never stored. -/
  par : BitVec 2
  baud : BitVec 32
  /-- The safe replacement byte. -/
  safe : Byte
  /-- Word length 5 + wlen. -/
  wlen : BitVec 2
  divh : Byte
  divl : Byte
  txd : Byte
  txe : Bool
  rxd : Byte
  rxc : Bool
  pe : Bool
  fe : Bool
  /-- Whether the latest receive step returned the safe byte (R32). -/
  subst : Bool
  cbTx : Option FnRef
  cbRx : Option FnRef
  txline : List TxFrame
  rxlog : List RxRecord
deriving DecidableEq, Repr

/-- Unit SPI (R26, R34 to R37, R48, R51). -/
structure Spi where
  inited : Bool
  en : Bool
  /-- true is master, false slave. -/
  mstr : Bool
  ie : Bool
  dord : Bool
  cpol : Bool
  x2 : Bool
  /-- An opaque value (R34), at most 8 bits wide (R80). -/
  clkdiv : Byte
  dirCs : LineDir
  dirCk : LineDir
  dirMo : LineDir
  dirSo : LineDir
  dr : Byte
  tc : Bool
  busy : Bool
  cb : Option FnRef
  wire : List SpiExchange
deriving DecidableEq, Repr

/-- Unit I2C (R26, R40 to R45, R51). -/
structure I2c where
  en : Bool
  brr : Byte
  ps : BitVec 2
  addr : BitVec 7
  gce : Bool
  dr : Byte
  /-- The raw status register: the code in bits [7:3], 0 in bit [2], the prescaler in bits [1:0] (R42). -/
  sr : Byte
  done : Bool
  op : Option I2cOp
  ph : I2cPhase
  owned : Bool
  bus : List BusEvent
deriving DecidableEq, Repr

/-- The reference device on the I2C bus, environment (R254). -/
structure Device where
  eep : Memory
  dptr : EepromAddr
  dst : DevPhase
  /-- A data byte of this transaction has been stored: the next one is the second (the model's own field). -/
  stored : Bool
  /-- How many more transactions the device may decline with `EE_BUSY`: a stop that ends a data write draws it, and each
  select byte declined takes one away (the model's own field, R254; log entry 16). -/
  declinesLeft : Nat
deriving DecidableEq, Repr

/-! ### The schedule: which agent moves next (R6, R89) -/

/-- How LINE comes by the frame it offers to URX. -/
inductive Offer where
  /-- A frame at the symbol level (R151). -/
  | frame (d : Byte) (p stop : Bool)
  /-- A bit sequence, parsed by R154. -/
  | bits (bs : List Bool)
  /-- The next frame of `UART.TXLINE` not yet offered back (R156). -/
  | loopback
deriving DecidableEq, Repr

/-- How PEER comes by the byte it answers a master exchange with (R186). -/
inductive Peer where
  /-- Any byte. -/
  | byte (p : Byte)
  /-- The byte sent (R190). -/
  | loopback
deriving DecidableEq, Repr

/-- What DEVICE and the wires supply to a step of I2B (R220): `v` is the byte a read gives. -/
inductive BusReply where
  | ok (v : Byte)
  | nack
  | fault
deriving DecidableEq, Repr

/-- A turn: the agent that takes the next atomic step, with the inputs the environment supplies to it. -/
inductive Turn where
  /-- HOST issues a command word in a context (R280). -/
  | issue (c : Ctx) (w : Word)
  /-- HOST writes a byte of its buffer memory (R70, R74). -/
  | hostWrite (a : Addr) (v : Byte)
  /-- CMD takes a micro-step of the command in flight in the current context (R6). -/
  | cmd
  /-- UTX (R150). -/
  | utx
  /-- URX, with the frame LINE offers (R151). -/
  | urx (o : Offer)
  /-- SPX in master role (R186). -/
  | spxMaster (p : Peer)
  /-- SPX in slave role: PEER runs an exchange with its byte m (R187). -/
  | spxSlave (m : Byte)
  /-- I2B, with the environment's outcome (R220). -/
  | i2b (r : BusReply)
  /-- I2B, with the reference device answering (R254); `declines` is its wish to decline a select byte, which counts
  only with `EE_BUSY` and while a decline is left to it. -/
  | i2bDevice (declines : Bool)
  /-- IRQ: the source taken, and whether the host still honours the reference handed out (R272, R297). -/
  | irq (src : IrqSource) (honoured : Bool)
  /-- The power-on reset (R290). -/
  | powerOn
deriving DecidableEq, Repr

/-! ### The whole state -/

/-- The state of the machine. -/
structure State where
  /-- The parameters (R5); no step writes them. -/
  params : Params
  /-- `CTX` (R23). -/
  ctx : Ctx
  /-- The bank of context FG. -/
  fg : Bank
  /-- The bank of context ISR. -/
  isr : Bank
  uart : Uart
  spi : Spi
  i2c : I2c
  /-- `CB.LOG` (R51, R272). -/
  cbLog : List (IrqSource × Option FnRef)
  /-- Host buffer memory `M` (R70). -/
  mem : Memory
  /-- The reference device (R254). -/
  dev : Device
  /-- How many frames of `UART.TXLINE` a loopback LINE has offered back (R156). -/
  looped : Nat
  /-- How many free values the run has drawn. -/
  draws : Nat
  /-- The turns still to be taken. -/
  turns : List Turn
deriving DecidableEq, Repr

/-! ### Reasons to stop -/

/-- The states that no rule gives a next step to and no run from reset reaches. The block itself has no fault channel
(R10, R260). DESIGN CHOICE, log entry 20. -/
inductive Fault where
  /-- Raised by a meaning when the current context has no command in flight. Safe: the step asks for a meaning only
  when there is one. -/
  | notInFlight
  /-- Raised by a meaning when `uph` names no micro-step of its command. Safe: no micro-step leaves such a `uph`. -/
  | noMicroStep
deriving DecidableEq, Repr

/-- The fourteen refusal reasons of R284, and the model's own `notModelled`. Each is safe: a refused run has no further
meaning, so nothing can be proved of it. -/
inductive Refusal where
  /-- Raised by exec's arm for a command with no meaning yet. Safe. No arm raises it now. -/
  | notModelled (mnemonic : String)
  /-- Raised at issue, and by a meaning given a reserved field value (R112 to R115). Safe. -/
  | illegalCommand
  /-- Raised at issue: another context runs, or a command is in flight (R280). Safe. -/
  | issueWhileBusy
  /-- Raised by the init commands of UART and SPI (R131, R171(b)). Safe. -/
  | initTwice
  /-- Raised by transfers before init (R131, R171(a), R205, R216). Safe. -/
  | notInitialised
  /-- Raised by blocking commands from FG in interrupt mode (R134, R171(d)). Safe. -/
  | pollingInInterruptMode
  /-- Raised by `SPI_RECVS` in interrupt mode (R171(c)). Safe. -/
  | notAvailableInInterruptMode
  /-- Raised by the SETCB commands in context ISR (R134, R171(f)). Safe. -/
  | setcbInHandler
  /-- Raised by `IRET` in context FG (R275). Safe. -/
  | iretOutsideHandler
  /-- Raised by `UART_INIT` (R133). Safe. -/
  | divisorRange
  /-- Raised by string commands past address 0xFFFF (R73). Safe. -/
  | addressRange
  /-- Raised by a write into the buffer of a string command in flight (R74). Safe. -/
  | bufferRace
  /-- Raised by I2C writes and reads in a phase that does not admit them (R206). Safe. -/
  | outOfSequence
  /-- Raised by a handler's command in a class of the suspended foreground command (R278). Safe. -/
  | overlap
  /-- Raised at a dispatch whose reference the host no longer honours (R297). Safe. -/
  | callbackLifetime
deriving DecidableEq, Repr

/-- What an atomic step answers. -/
abbrev Result := Host.Outcome State Fault Refusal

/-! ### Reset (R56) -/

/-- A bank after reset. `RET` and `RES` are unwritten: the values here are the model's (DESIGN CHOICE, log entry 4). -/
def Bank.reset : Bank where
  ret := 0
  res := 0
  cur := none

/-- Unit UART after reset. The fields R56 leaves unspecified (`rate` to `divl`, `txd`, `rxd`) are zero: DESIGN CHOICE,
log entry 4. -/
def Uart.reset : Uart where
  inited := false
  txen := false
  rxen := false
  txie := false
  rxie := false
  rate := false
  txm := false
  rxm := false
  par := 0
  baud := 0
  safe := 0
  wlen := 0
  divh := 0
  divl := 0
  txd := 0
  txe := true
  rxd := 0
  rxc := false
  pe := false
  fe := false
  subst := false
  cbTx := none
  cbRx := none
  txline := []
  rxlog := []

/-- Unit SPI after reset. The fields R56 leaves unspecified (`dord`, `cpol`, `x2`, `clkdiv`, `dr`) are zero: DESIGN
CHOICE, log entry 4. -/
def Spi.reset : Spi where
  inited := false
  en := false
  mstr := false
  ie := false
  dord := false
  cpol := false
  x2 := false
  clkdiv := 0
  dirCs := .input
  dirCk := .input
  dirMo := .input
  dirSo := .input
  dr := 0
  tc := false
  busy := false
  cb := none
  wire := []

/-- Unit I2C after reset. The fields R56 leaves unspecified are zero, but for the status code, which is the 0b11111
that R42 gives for the AVR part: DESIGN CHOICE, log entry 4. -/
def I2c.reset : I2c where
  en := false
  brr := 0
  ps := 0
  addr := 0
  gce := false
  dr := 0
  sr := 0xF8
  done := false
  op := none
  ph := .idle
  owned := false
  bus := []

/-- The reference device before anything was written to it (the start state of program P2). -/
def Device.fresh : Device where
  eep := []
  dptr := 0
  dst := .idle
  stored := false
  declinesLeft := 0

/-- The machine right after reset, for a choice of the parameters. -/
def State.resetWith (p : Params) : State where
  params := p
  ctx := .fg
  fg := Bank.reset
  isr := Bank.reset
  uart := Uart.reset
  spi := Spi.reset
  i2c := I2c.reset
  cbLog := []
  mem := []
  dev := Device.fresh
  looped := 0
  draws := 0
  turns := []

/-- The machine right after reset (R56, R291). -/
def State.reset : State := State.resetWith Params.suggested

end Sys2Proof.Machine
end

