-- ==== Sys2Proof/Machine/Operands.lean ====
section
/-!
DEFINITION. The operands a command derives from its fields and from the configuration (30_encoding.md rule R111), and the
arithmetic of 00_scope.md rule R11: the word length and its mask, the baud divisor, the speed tiers, the device-select
byte, the status mask.
-/

namespace Sys2Proof.Machine

/-- Word length w = 5 + `wlen` (R27, R111). -/
def wordLength (wlen : BitVec 2) : Nat := 5 + wlen.toNat

/-- `wmask(w) = (1 << w) - 1` (R11(c)): 0x1F, 0x3F, 0x7F, 0xFF for w = 5, 6, 7, 8. -/
def wmask (w : Nat) : Byte := BitVec.ofNat 8 (2 ^ w - 1)

/-- The mask of the configured word length. -/
def Uart.mask (u : Uart) : Byte := wmask (wordLength u.wlen)

/-- `round(F_CLK / (8*baud)) = (F_CLK + 4*baud) div (8*baud)` (R11(a), R133): to nearest, a half up. -/
def roundedQuotient (fClk baud : Nat) : Nat := (fClk + 4 * baud) / (8 * baud)

/-- `div16 = round(F_CLK / (baud*8)) - 1`, where it lies in 0 to 0xFFFF (R133). -/
def baudDivisor (fClk baud : Nat) : Option (BitVec 16) :=
  let q := roundedQuotient fClk baud
  if 1 ≤ q ∧ q ≤ 0x10000 then some (BitVec.ofNat 16 (q - 1)) else none

/-- `divh = div16 >> 8` (R11(b), R76). -/
def divHigh (d : BitVec 16) : Byte := d.extractLsb' 8 8

/-- `divl = div16 AND 0xFF` (R11(b), R76). -/
def divLow (d : BitVec 16) : Byte := d.extractLsb' 0 8

/-- `I2C_TIER`: (divisor, prescaler) of a speed tier (R203). Tier 3 is reserved and never gets here (R114). -/
def i2cTier (tier : BitVec 2) : Byte × BitVec 2 :=
  if tier = 0 then (98, 1) else if tier = 1 then (8, 1) else (2, 0)

/-- The device-select byte `sel(a, rw) = 0xA0 OR (a[10:8] << 1) OR rw` (R11(e), R241). -/
def selectByte (ea : EepromAddr) (rw : Bool) : Byte :=
  Config.eeSelBase ||| ((ea.extractLsb' 8 3).setWidth 8 <<< 1) ||| (BitVec.ofBool rw).setWidth 8

/-- The second address byte `ea[7:0]` (R77, R241). -/
def lowAddress (ea : EepromAddr) : Byte := ea.extractLsb' 0 8

/-- `I2C.sr AND 0xF8` (R11(f), R218). -/
def statusCode (sr : Byte) : Byte := sr &&& 0xF8

/-- `I2C.sr[7:3] <- code[7:3]`, bits [2:0] kept (R216, R220). -/
def withStatus (sr : Byte) (code : BitVec 5) : Byte := BitVec.ofNat 8 (8 * code.toNat + sr.toNat % 8)

/-- The five status bits [7:3] of a code. -/
def codeBits (code : Byte) : BitVec 5 := code.extractLsb' 3 5

/-- The raw status register after an init: `{c, 0b0, ps}` (R202). -/
def statusAfterInit (code : BitVec 5) (ps : BitVec 2) : Byte := BitVec.ofNat 8 (8 * code.toNat + ps.toNat)

/-- `fail_code(okcode)` from a drawn code: any code with bits [2:0] = 0 other than the success code of the operation
just ended (R226). The drawn code is taken as it is unless it is that one. -/
def failBits (okcode : Byte) (drawn : BitVec 5) : BitVec 5 :=
  if drawn = codeBits okcode then drawn + 1 else drawn

/-- The register a callback command puts in a slot: `if some = 1 then some(fn) else none` (R148, R184). -/
def slotValue (reg : Bool) (fn : FnRef) : Option FnRef := if reg then some fn else none

end Sys2Proof.Machine
end

