-- ==== Sys2Proof/Machine/Flags.lean ====
section
/-!
DEFINITION. The flags the block computes: parity and framing errors of a received frame (R151, R153), the line error of a
receive step (R139), and the pending conditions of the interrupt sources (R266). The block has no arithmetic condition
codes (R26).
-/

namespace Sys2Proof.Machine

/-- `xorbits(d, w)`: the XOR of bits d[w-1] down to d[0] (R11(d)). -/
def xorbits (d : Byte) : (w : Nat) → Bool
  | 0 => false
  | w + 1 => d.getLsbD w ^^ xorbits d w

/-- `parbit(par, d, w)` (R153), absent when par = none: even is `xorbits`, odd its complement. The mode 3 is
never stored (R27) and computes as even: DESIGN CHOICE, log entry 19. -/
def parbit (par : BitVec 2) (d : Byte) (w : Nat) : Option Bool :=
  if par = 0 then none else if par = 1 then some (!xorbits d w) else some (xorbits d w)

/-- The parity error of a received frame: parity is on and the parity bit differs from the one computed over the data
bits (R151). -/
def parityError (par : BitVec 2) (d : Byte) (w : Nat) (p : Bool) : Bool :=
  match parbit par d w with
  | none => false
  | some q => p != q

/-- The framing error of a received frame: the stop bit is sampled 0 (R151). -/
def framingError (stop : Bool) : Bool := !stop

/-- `err` of a receive step: a parity flag counts only if parity is on, a framing flag always (R139). -/
def Uart.lineError (u : Uart) : Bool := (u.par != 0 && u.pe) || u.fe

/-- The source's pending condition (R266). -/
def State.pending (s : State) : IrqSource → Bool
  | .uartTx => s.uart.txie && s.uart.txe
  | .uartRx => s.uart.rxie && s.uart.rxc
  | .spiTc => s.spi.ie && s.spi.tc

/-- The source is one that `IRQ_ORDER` lets a dispatch take: it is pending, and no source that is taken before it is
pending (R269, R272). -/
def State.mayTake (s : State) (src : IrqSource) : Bool :=
  s.pending src && [IrqSource.uartTx, .uartRx, .spiTc].all fun o => !(s.pending o && s.params.takesFirst o src)

end Sys2Proof.Machine
end

