-- ==== Sys2Proof/Machine/Wire.lean ====
section
/-!
DEFINITION. What the symbols look like bit by bit on the wires (20_memory.md rules R86 to R88, 41_uart.md rules R153 and
R154, 42_spi.md rule R188), so that a bit-level environment can be attached. A line bit is a Bool; no rule depends on
time (R7).
-/

namespace Sys2Proof.Machine

/-- The first `n` bits of a byte, bit 0 first. -/
def lsbFirst (d : Byte) (n : Nat) : List Bool := (List.range n).map d.getLsbD

/-- The bit sequence of a UART frame, first bit first: start bit 0, data bits least significant first, the parity bit
when there is one, one stop bit 1 (R86, R153). -/
def frameBits (w : Nat) (par : BitVec 2) (d : Byte) : List Bool :=
  [false] ++ lsbFirst d w ++ (parbit par d w).toList ++ [true]

/-- The byte whose bit k is the k-th Bool of the list. -/
def byteOfBits : List Bool → Byte
  | [] => 0
  | b :: bs => (byteOfBits bs <<< 1) ||| (BitVec.ofBool b).setWidth 8

/-- The frame in the bits that follow a start bit: w data bits, the parity bit when par is not none, the stop bit
(R154). The parity bit of a frame without one is given as false. -/
def parseBody (w : Nat) (par : BitVec 2) (bs : List Bool) : Option (Byte × Bool × Bool) :=
  if bs.length < w then none
  else
    match par == 0, bs.drop w with
    | true, stop :: _ => some (byteOfBits (bs.take w), false, stop)
    | false, p :: stop :: _ => some (byteOfBits (bs.take w), p, stop)
    | _, _ => none

/-- The frame `(d, p, stop)` in a bit sequence: the line rests at 1, a 0 is the start bit (R153, R154). `none` when the
sequence holds no whole frame. The sequence is taken to begin on a line at rest, whatever came before it, and the bits
after its first whole frame are not looked at: DESIGN CHOICE, log entry 25. -/
def parseFrame (w : Nat) (par : BitVec 2) : List Bool → Option (Byte × Bool × Bool)
  | [] => none
  | true :: bs => parseFrame w par bs
  | false :: bs => parseBody w par bs

/-- The eight bits of an SPI byte on a data line, in the order `SPI.dord` selects: false is bit 7 first (R87, R188). -/
def spiBits (dord : Bool) (b : Byte) : List Bool := if dord then lsbFirst b 8 else (lsbFirst b 8).reverse

/-- The level at which the SPI clock line rests (R188). -/
def spiClockRest (cpol : Bool) : Bool := cpol

/-- The eight bits of an I2C byte on the bus, bit 7 first (R88). -/
def i2cBits (b : Byte) : List Bool := (lsbFirst b 8).reverse

/-- The level of the acknowledge bit: low is acknowledged. PRESUMED, log entry 26: the spec names the bit and its two
meanings and gives no level. -/
def ackBit : Ack → Bool
  | .a => false
  | .n => true

/-- The nine bits of an I2C byte on the bus: the byte, bit 7 first, and ninth the acknowledge bit that the receiver of the
byte drives (R88). -/
def i2cByteBits (b : Byte) (k : Ack) : List Bool := i2cBits b ++ [ackBit k]

/-- The two ends of an I2C transfer: the block, which is the one master, and the device it addresses. -/
inductive BusEnd where
  | master
  | device
deriving DecidableEq, Repr

/-- What a bus event puts on the bus as a byte: the end that sends the byte, the byte and its acknowledge bit. A byte the
master sends is an address or data byte, a byte the device sends is one that is read (R51, R88); the other events are no
bytes. -/
def busByte : BusEvent → Option (BusEnd × Byte × Ack)
  | .start => none
  | .repStart => none
  | .addr b k => some (.master, b, k)
  | .data b k => some (.master, b, k)
  | .read b k => some (.device, b, k)
  | .stop => none
  | .fault => none
  | .reinit => none

/-- The receiver of a byte, which drives its acknowledge bit, is the end that does not send it (R88). -/
def BusEnd.other : BusEnd → BusEnd
  | .master => .device
  | .device => .master

/-- The bits of a bus event, first bit first, each with the end that drives it: eight of the sender and the ninth of the
receiver (R88). A start, a stop and an event that is not well formed are no bits. -/
def eventBits (ev : BusEvent) : List (BusEnd × Bool) :=
  match busByte ev with
  | none => []
  | some (sender, b, k) => (i2cBits b).map (fun x => (sender, x)) ++ [(sender.other, ackBit k)]

/-- An I2C address byte `{a7, rw}` (R88). -/
def addressByte (a7 : BitVec 7) (rw : Bool) : Byte := BitVec.ofNat 8 (2 * a7.toNat + rw.toNat)

end Sys2Proof.Machine
end

