-- ==== Sys2Proof/Machine/Ops.lean ====
section
/-!
DEFINITION. The named operations over memory and state that the meanings share: host memory (R70 to R74), the banked result
registers and the command in flight (R20 to R25), the shape of a micro-step (R9), the sub-steps of the UART, SPI, I2C and
EEPROM rules, and taking an interrupt and returning from it (R272, R275).
-/

namespace Sys2Proof.Machine

/-! ### Memories in canonical form -/

/-- The byte at an address: the blank byte where none is listed. -/
def Memory.read (blank : Byte) : Memory → Nat → Byte
  | [], _ => blank
  | (b, x) :: m, a => if a = b then x else Memory.read blank m a

/-- Store a byte at an address, keeping the canonical form: storing the blank byte removes the entry. -/
def Memory.write (blank : Byte) : Memory → Nat → Byte → Memory
  | [], a, v => if v = blank then [] else [(a, v)]
  | (b, x) :: m, a, v =>
    if a < b then (if v = blank then (b, x) :: m else (a, v) :: (b, x) :: m)
    else if a = b then (if v = blank then m else (a, v) :: m)
    else (b, x) :: Memory.write blank m a v

/-- The addresses rise strictly from `lo` on and stay below `size`, and no entry holds the blank byte. -/
def Memory.wfFrom (blank : Byte) (size : Nat) : Nat → Memory → Bool
  | _, [] => true
  | lo, (a, v) :: m => decide (lo ≤ a) && decide (a < size) && v != blank && Memory.wfFrom blank size (a + 1) m

/-- The canonical form. -/
def Memory.wf (blank : Byte) (size : Nat) (m : Memory) : Bool := Memory.wfFrom blank size 0 m

/-- `M[a]` (R71). -/
def State.readMem (s : State) (a : Nat) : Byte := Memory.read Config.memBlank s.mem a

/-- `M[a] <- v` (R72), where the address is in range. -/
def State.writeMem (s : State) (a : Nat) (v : Byte) : State :=
  { s with mem := Memory.write Config.memBlank s.mem a v }

/-! ### Micro-steps (R9) -/

/-- `require c else refuse(reason)`. -/
def require (c : Prop) [Decidable c] (reason : Refusal) (body : Result) : Result :=
  if c then body else .refused reason

/-- `hold until c`: while the condition is false the micro-step is not enabled and the turn passes with nothing done. -/
def holdUntil (c : Bool) (s : State) (body : Result) : Result :=
  if c then body else .next s

/-! ### Banks (R20 to R25) -/

/-- The bank of a context. -/
def State.bank (s : State) : Ctx → Bank
  | .fg => s.fg
  | .isr => s.isr

/-- Put a bank. -/
def State.setBank (s : State) (c : Ctx) (b : Bank) : State :=
  match c with
  | .fg => { s with fg := b }
  | .isr => { s with isr := b }

/-- `CUR[CTX]`. -/
def State.cur (s : State) : Option InFlight := (s.bank s.ctx).cur

/-- `CUR[CTX] <- k`. -/
def State.setCur (s : State) (k : Option InFlight) : State := s.setBank s.ctx { s.bank s.ctx with cur := k }

/-- `RET[CTX] <- v` (R21). -/
def State.setRet (s : State) (v : Byte) : State := s.setBank s.ctx { s.bank s.ctx with ret := v }

/-- `RES[CTX] <- v` (R22). -/
def State.setRes (s : State) (v : BitVec 1) : State := s.setBank s.ctx { s.bank s.ctx with res := v }

/-- `complete`: the command in flight ends and its context is free (R9). -/
def State.complete (s : State) : State := s.setCur none

/-- The micro-step is done and the command goes on at micro-phase `n` (R25). -/
def State.goto (s : State) (k : InFlight) (n : Nat) : State := s.setCur (some { k with uph := n })

/-- A command just issued: micro-phase 0 (R24). The string fields are not read before the command writes them:
DESIGN CHOICE, log entry 23. -/
def InFlight.issued (w : Word) : InFlight where
  word := w
  uph := 0
  sp := 0
  sn := 0
  si := 0
  tmp := 0

/-- The command the word in flight stands for. -/
def InFlight.instr (k : InFlight) : Option Instr :=
  match decode k.word with
  | .ok i => some i
  | .error _ => none

/-! ### Buffers of string commands in flight (R74) -/

/-- The address of the first zero byte at or after `a`, or the last address the fuel reaches. -/
def stringEnd (m : Memory) : (fuel : Nat) → (a : Nat) → Nat
  | 0, a => a
  | f + 1, a => if Memory.read Config.memBlank m a = 0 then a else stringEnd m f (a + 1)

/-- The first and last address of the buffer of a string command in flight. A sent string ends at its terminator; a
received string takes n + 1 bytes once the length prefix n is read, and up to 256 before (R73). DEDUCED, log entry 9. -/
def InFlight.buffer (m : Memory) (k : InFlight) : Option (Nat × Nat) :=
  match k.instr with
  | some (.uartSends p) => some (p.toNat, stringEnd m (0xFFFF - p.toNat) p.toNat)
  | some (.spiSends p) => some (p.toNat, stringEnd m (0xFFFF - p.toNat) p.toNat)
  | some (.uartRecvs p) => some (p.toNat, p.toNat + (if k.uph = 0 then 255 else k.si.toNat))
  | some (.spiRecvs p) => some (p.toNat, p.toNat + (if k.uph = 0 then 255 else k.si.toNat))
  | _ => none

/-- The address lies in the buffer of the string command in flight in this bank. -/
def State.inBuffer (s : State) (b : Bank) (a : Nat) : Bool :=
  match b.cur with
  | none => false
  | some k =>
    match k.buffer s.mem with
    | none => false
    | some (lo, hi) => decide (lo ≤ a) && decide (a ≤ hi)

/-- The store of a command: `MemWrite(a, 1, v)` with the address check of R73 and, in a handler, the check that the byte
belongs to no buffer of the suspended foreground command (R74). -/
def storeByte (a : Nat) (v : Byte) (s : State) (body : State → Result) : Result :=
  require (a ≤ 0xFFFF) .addressRange <|
    require (¬(s.ctx = .isr ∧ s.inBuffer s.fg a = true)) .bufferRace <|
      body (s.writeMem a v)

/-- The load of a string command: the byte at the string pointer, with the address check of R73. -/
def loadByte (a : Nat) (s : State) (body : Byte → Result) : Result :=
  require (a ≤ 0xFFFF) .addressRange <| body (s.readMem a)

/-! ### UART sub-steps -/

/-- `send_step(c)` (R136): the low w bits go to `txd`, and `txe` falls. -/
def State.sendStep (s : State) (c : Byte) : State :=
  { s with uart := { s.uart with txd := c &&& s.uart.mask, txe := false } }

/-- The byte `recv_step()` returns: the safe byte on a line error, else the received byte (R139). -/
def Uart.recvValue (u : Uart) : Byte := if u.lineError then u.safe else u.rxd

/-- The writes of `recv_step()` (R139). -/
def State.recvStep (s : State) : State :=
  { s with uart := { s.uart with subst := s.uart.lineError, rxc := false, pe := false, fe := false } }

/-! ### SPI sub-steps -/

/-- `spi_put(c)` (R176): the write of `dr` clears `tc` and, in a master, starts the exchange. -/
def State.spiPut (s : State) (c : Byte) : State :=
  { s with spi := { s.spi with dr := c, tc := false, busy := s.spi.mstr || s.spi.busy } }

/-- The writes of `spi_get()` (R178); the byte it returns is `dr`. -/
def State.spiGet (s : State) : State :=
  { s with spi := { s.spi with tc := false } }

/-! ### I2C sub-steps -/

/-- The phase admits the operation (R206). -/
def admitsI2c : I2cOp → I2cPhase → Bool
  | .start, _ => true
  | .write, .addr => true
  | .write, .mt => true
  | .write, _ => false
  | .readAck, .mr => true
  | .readAck, _ => false
  | .readNack, .mr => true
  | .readNack, _ => false

/-- `i2c_issue(X)` (R205). -/
def i2cIssue (x : I2cOp) (s : State) (body : State → Result) : Result :=
  require (s.i2c.en = true) .notInitialised <|
    require (admitsI2c x s.i2c.ph = true) .outOfSequence <|
      body { s with i2c := { s.i2c with op := some x, done := false } }

/-- `I2C.dr <- b`. -/
def State.setI2cData (s : State) (b : Byte) : State := { s with i2c := { s.i2c with dr := b } }

/-- The reference device releases itself: what it does at `Reinit` (R254). -/
def Device.release (d : Device) : Device := { d with dst := .idle, stored := false }

/-- The reference device at `Stop` (R254): it releases itself, and the stop that ends a data write begins its write
time: the number of transactions it may then decline, finite and unspecified, is the `k`-th free value (log entry 16). -/
def Device.stopped (d : Device) (k : Nat) : Device :=
  { d.release with declinesLeft := if d.dst = .dataW ∧ d.stored = true then Config.drawDeclines k else d.declinesLeft }

/-- The body of `I2C_STOP` (R216), `stop_step()` of R248: the code afterwards is a free value, and so is the extent of the
write time that the stop begins (R254). The device sees the stop only if there is one on the bus. -/
def State.stopStep (s : State) : State :=
  { s with
    i2c := { s.i2c with
      ph := .idle
      owned := false
      bus := if s.i2c.owned then s.i2c.bus ++ [.stop] else s.i2c.bus
      sr := withStatus s.i2c.sr (Config.drawCode s.draws) }
    dev := if s.i2c.owned then s.dev.stopped s.draws else s.dev
    draws := s.draws + 1 }

/-- The body of `I2C_INIT` (R202), which `EE_INIT` shares (R242): the code afterwards is a free value. -/
def State.i2cSetup (s : State) (tier : BitVec 2) (addr7 : BitVec 7) : State :=
  { s with
    i2c := { s.i2c with
      en := true
      brr := (i2cTier tier).1
      ps := (i2cTier tier).2
      addr := addr7
      gce := true
      bus := if s.i2c.owned then s.i2c.bus ++ [.reinit] else s.i2c.bus
      ph := .idle
      owned := false
      op := none
      done := false
      sr := statusAfterInit (Config.drawCode s.draws) (i2cTier tier).2 }
    dev := if s.i2c.owned then s.dev.release else s.dev
    draws := s.draws + 1 }

/-- `check(c)` (R248): on a mismatch the command ends with `RES_ERROR` and no stop (R249), else it goes on at
micro-phase `n`. -/
def checkStatus (code : Byte) (s : State) (k : InFlight) (n : Nat) : Result :=
  if statusCode s.i2c.sr = code then .next (s.goto k n) else .next (s.setRes Config.resError).complete

/-- The issue micro-step of an EEPROM sequence that sends a byte: `I2C.dr <- b; i2c_issue(Write)` (R244, R246). -/
def eepromSend (b : Byte) (s : State) (k : InFlight) (n : Nat) : Result :=
  i2cIssue .write (s.setI2cData b) fun t => .next (t.goto k n)

/-- The issue micro-step of an EEPROM sequence that sends no byte (R244, R246). -/
def eepromIssue (x : I2cOp) (s : State) (k : InFlight) (n : Nat) : Result :=
  i2cIssue x s fun t => .next (t.goto k n)

/-- The wait micro-step of an EEPROM sequence: `hold until I2C.done = 1; check(c)`, one atomic micro-step (R248). -/
def eepromWait (code : Byte) (s : State) (k : InFlight) (n : Nat) : Result :=
  holdUntil s.i2c.done s <| checkStatus code s k n

/-- The last micro-step of an EEPROM sequence: `stop_step(); RES <- RES_OK; complete`. -/
def eepromFinish (s : State) : Result :=
  .next (s.stopStep.setRes Config.resOk).complete

/-! ### Taking an interrupt, and the return from it -/

/-- `slot(s)`: the callback slot of a source (R265). -/
def State.slot (s : State) : IrqSource → Option FnRef
  | .uartTx => s.uart.cbTx
  | .uartRx => s.uart.cbRx
  | .spiTc => s.spi.cb

/-- Taking an interrupt (R272): the dispatch is recorded and, where the slot holds a reference, the context becomes ISR.
Nothing is saved and nothing else changes. An empty slot is entered and left in the one step (R273). The record on
`CB.LOG` is what `Invoke` hands to the host (R287). A reference the host no longer honours is refused
(R297; log entry 18). -/
def takeInterrupt (src : IrqSource) (honoured : Bool) (s : State) : Result :=
  match s.slot src with
  | none => .next { s with cbLog := s.cbLog ++ [(src, none)] }
  | some f =>
    require (honoured = true) .callbackLifetime <|
      .next { s with cbLog := s.cbLog ++ [(src, some f)], ctx := .isr }

/-- The return (R275): the handler's command completes in its own context and `CTX` becomes FG; nothing else is
restored. -/
def State.returnFromHandler (s : State) : State := { s.complete with ctx := .fg }

end Sys2Proof.Machine
end

