-- ==== Sys2Proof/Machine/Admission.lean ====
section
/-!
DEFINITION. Which commands are admitted: the transfer classes and the overlap rule (R278), the admission by context and
mode (R131, R134, R171, R275, R279), and the frame of a micro-step that every meaning stands in.

The rules say that a command is refused when it is ISSUED. The same check stands at micro-step u0 as well, as the
`require` lines of R132, R148, R172, R182 and R275 have it: log entry 7.
-/

namespace Sys2Proof.Machine

/-- The four transfer classes (R278). -/
inductive TransferClass where
  | uartTx
  | uartRx
  | spi
  | i2c
deriving DecidableEq, Repr

/-- The classes of a command (R278). -/
def transferClasses : Instr → List TransferClass
  | .iret => []
  | .uartInit _ _ _ _ _ _ _ => [.uartTx, .uartRx]
  | .uartSend _ => [.uartTx]
  | .uartRecv => [.uartRx]
  | .uartSends _ => [.uartTx]
  | .uartRecvs _ => [.uartRx]
  | .uartSetcb _ _ _ => []
  | .spiInitm => [.spi]
  | .spiInits => [.spi]
  | .spiSend _ => [.spi]
  | .spiRecv => [.spi]
  | .spiSends _ => [.spi]
  | .spiRecvs _ => [.spi]
  | .spiSetcb _ _ _ => []
  | .i2cInit _ _ => [.i2c]
  | .i2cStart => [.i2c]
  | .i2cWrite _ => [.i2c]
  | .i2cRdack => [.i2c]
  | .i2cRdnack => [.i2c]
  | .i2cStop => [.i2c]
  | .i2cStatus => [.i2c]
  | .eeInit => [.i2c]
  | .eeWrite _ _ => [.i2c]
  | .eeRead _ _ => [.i2c]

/-- The commands share a transfer class. -/
def sharesClass (i j : Instr) : Bool := (transferClasses i).any fun c => (transferClasses j).contains c

/-- The foreground's command in flight shares a class with this one (R278). -/
def State.foregroundUses (s : State) (i : Instr) : Bool :=
  match s.fg.cur with
  | none => false
  | some k =>
    match k.instr with
    | none => false
    | some j => sharesClass i j

/-- Admission by unit and mode (R131, R134, R171, R275, R279), for a command of context `c`. -/
def modeRefusal (c : Ctx) (s : State) : Instr → Option Refusal
  | .iret => if c = .isr then none else some .iretOutsideHandler
  | .uartInit _ _ _ _ _ _ _ => if s.uart.inited then some .initTwice else none
  | .uartSend _ => uartSendRefusal
  | .uartRecv => uartRecvRefusal
  | .uartSends _ => uartSendRefusal
  | .uartRecvs _ => uartRecvRefusal
  | .uartSetcb _ _ _ => if c = .isr then some .setcbInHandler else none
  | .spiInitm => if s.spi.inited then some .initTwice else none
  | .spiInits => if s.spi.inited then some .initTwice else none
  | .spiSend _ => if s.spi.inited then none else some .notInitialised
  | .spiRecv =>
    if !s.spi.inited then some .notInitialised
    else if c = .fg ∧ s.spi.ie = true then some .pollingInInterruptMode else none
  | .spiSends _ => if s.spi.inited then none else some .notInitialised
  | .spiRecvs _ =>
    if !s.spi.inited then some .notInitialised
    else if s.spi.ie then some .notAvailableInInterruptMode else none
  | .spiSetcb _ _ _ => if c = .isr then some .setcbInHandler else none
  | .i2cInit _ _ => none
  | .i2cStart => none
  | .i2cWrite _ => none
  | .i2cRdack => none
  | .i2cRdnack => none
  | .i2cStop => none
  | .i2cStatus => none
  | .eeInit => none
  | .eeWrite _ _ => none
  | .eeRead _ _ => none
where
  uartSendRefusal : Option Refusal :=
    if !s.uart.inited then some .notInitialised
    else if c = .fg ∧ s.uart.txm = true then some .pollingInInterruptMode else none
  uartRecvRefusal : Option Refusal :=
    if !s.uart.inited then some .notInitialised
    else if c = .fg ∧ s.uart.rxm = true then some .pollingInInterruptMode else none

/-- Why a command of context `c` is not admitted, if it is not. Where several reasons hold the first of this order is
the one given: an illegal command, an overlap, the unit and the mode. DESIGN CHOICE, log entry 8. -/
def admissionIn (c : Ctx) (s : State) (i : Instr) : Option Refusal :=
  if i.wellFormed = false then some .illegalCommand
  else if c = .isr ∧ s.foregroundUses i = true then some .overlap
  else modeRefusal c s i

/-- Admission in the current context. -/
def admission (s : State) (i : Instr) : Option Refusal := admissionIn s.ctx s i

/-- A micro-step of the command in flight in the current context: the body is given the in-flight record. At u0 the
command's admission is checked. -/
def microStep (i : Instr) (s : State) (body : InFlight → Result) : Result :=
  match s.cur with
  | none => .fault .notInFlight
  | some k =>
    if k.uph = 0 then
      match admission s i with
      | some r => .refused r
      | none => body k
    else body k

end Sys2Proof.Machine
end

