-- ==== Sys2Proof/Machine/Agents.lean ====
section
/-!
DEFINITION. The agents other than CMD (00_scope.md rule R6), each one atomic step: HOST (R24, R70, R280), UTX (R150),
URX (R151), SPX (R186, R187), I2B (R220 to R226) with the reference device (R254), IRQ (R270 to R273), and the power-on
reset (R290 to R292). An agent whose guard does not hold is not enabled: its turn passes and nothing changes
(DESIGN CHOICE, log entry 11).
-/

namespace Sys2Proof.Machine

/-! ### HOST -/

/-- HOST issues a command word in context `c` (R24, R115, R280): the word is put in flight at u0 and nothing else
changes. -/
def hostIssue (c : Ctx) (w : Word) (s : State) : Result :=
  require (s.ctx = c ∧ (s.bank c).cur = none) .issueWhileBusy <|
    match legalCommand w with
    | none => .refused .illegalCommand
    | some i =>
      match admissionIn c s i with
      | some r => .refused r
      | none => .next (s.setBank c { s.bank c with cur := some (InFlight.issued w) })

/-- HOST writes a byte of its memory (R70); the bytes of the buffer of a string command in flight are not its to write
(R74). HOST may write the others at any time, also while the command of the current context is held: DESIGN CHOICE, log
entry 32. -/
def hostWrite (a : Addr) (v : Byte) (s : State) : Result :=
  require (s.inBuffer s.fg a.toNat = false ∧ s.inBuffer s.isr a.toNat = false) .bufferRace <|
    .next (s.writeMem a.toNat v)

/-! ### UTX -/

/-- UTX, the transmit framer (R150). -/
def utxStep (s : State) : State :=
  if s.uart.txen = true ∧ s.uart.txe = false then
    let w := wordLength s.uart.wlen
    let d := s.uart.txd &&& wmask w
    { s with uart := { s.uart with
        txline := s.uart.txline ++ [⟨w, s.uart.par, d, parbit s.uart.par d w⟩]
        txe := true } }
  else s

/-! ### URX -/

/-- The frame LINE offers: a symbol, the first whole frame in a bit sequence (R154), or the next frame of the loopback
(R156). That each sequence begins on a line at rest, and that one turn takes one frame of it, is a DESIGN CHOICE, log entry
25. -/
def State.offered (s : State) : Offer → Option (Byte × Bool × Bool)
  | .frame d p stop => some (d, p, stop)
  | .bits bs => parseFrame (wordLength s.uart.wlen) s.uart.par bs
  | .loopback =>
    match s.uart.txline[s.looped]? with
    | none => none
    | some f => some (f.d, f.p.getD false, true)

/-- The verdict on a frame that arrives now (R51, R151, R152). -/
def Uart.verdict (u : Uart) : RxVerdict := if !u.rxen then .ignored else if u.rxc then .dropped else .accepted

/-- URX takes the frame `(d, p, stop)` (R151, R152): the data bits are the low w bits, and the parity bit counts only
when par is not none (DESIGN CHOICE, log entry 13). -/
def State.receiveFrame (s : State) (d : Byte) (p stop : Bool) : State :=
  let w := wordLength s.uart.wlen
  let d := d &&& wmask w
  let rec_ : RxRecord := ⟨d, if s.uart.par = 0 then none else some p, stop, s.uart.verdict⟩
  match s.uart.verdict with
  | .accepted =>
    { s with uart := { s.uart with
        rxd := d
        pe := parityError s.uart.par d w p
        fe := framingError stop
        rxc := true
        rxlog := s.uart.rxlog ++ [rec_] } }
  | .dropped => { s with uart := { s.uart with rxlog := s.uart.rxlog ++ [rec_] } }
  | .ignored => { s with uart := { s.uart with rxlog := s.uart.rxlog ++ [rec_] } }

/-- URX, the receive framer (R151): a turn with no frame on the line passes, and a turn takes one frame. -/
def urxStep (o : Offer) (s : State) : State :=
  match s.offered o with
  | none => s
  | some (d, p, stop) =>
    match o with
    | .loopback => { s.receiveFrame d p stop with looped := s.looped + 1 }
    | .frame _ _ _ => s.receiveFrame d p stop
    | .bits _ => s.receiveFrame d p stop

/-! ### SPX -/

/-- The byte PEER answers (R186, R190). -/
def peerByte (dr : Byte) : Peer → Byte
  | .byte p => p
  | .loopback => dr

/-- SPX in master role (R186). -/
def spxMasterStep (p : Peer) (s : State) : State :=
  if s.spi.en = true ∧ s.spi.mstr = true ∧ s.spi.busy = true then
    let b := peerByte s.spi.dr p
    { s with spi := { s.spi with
        wire := s.spi.wire ++ [⟨.master, s.spi.dr, b⟩]
        dr := b
        busy := false
        tc := true } }
  else s

/-- SPX in slave role (R187). -/
def spxSlaveStep (m : Byte) (s : State) : State :=
  if s.spi.en = true ∧ s.spi.mstr = false then
    { s with spi := { s.spi with
        wire := s.spi.wire ++ [⟨.slave, s.spi.dr, m⟩]
        dr := m
        tc := true } }
  else s

/-! ### I2B -/

/-- The end of an operation (R220): the event is recorded, the code stands in bits [7:3] of the status register, the
phase is written, the operation is over. -/
def I2c.ended (u : I2c) (code : BitVec 5) (ph : I2cPhase) (ev : List BusEvent) : I2c :=
  { u with sr := withStatus u.sr code, ph := ph, bus := u.bus ++ ev, op := none, done := true }

/-- An operation that succeeded. -/
def State.i2cSucceeds (s : State) (okcode : Byte) (ph : I2cPhase) (ev : BusEvent) : State :=
  { s with i2c := s.i2c.ended (codeBits okcode) ph [ev] }

/-- An operation that failed: phase FAIL, ownership kept, and any code but the success code (R226). -/
def State.i2cFails (s : State) (okcode : Byte) (ev : List BusEvent) : State :=
  { s with
    i2c := s.i2c.ended (failBits okcode (Config.drawCode s.draws)) .fail ev
    draws := s.draws + 1 }

/-- The code a successful start reports (R45, R222). -/
def State.startCode (s : State) : Byte := if s.i2c.owned then s.params.stRepStart else s.params.stStart

/-- The code of an acknowledged address byte: bit 0 is read intent (R223). -/
def State.addressCode (s : State) : Byte :=
  if s.i2c.dr.getLsbD 0 then s.params.stMrSlaAck else s.params.stMtSlaAck

/-- I2B, start (R222). The environment has no outcome `nack` for a start: such a turn passes (DEDUCED, log entry 14). -/
def i2bStart (r : BusReply) (s : State) : State :=
  match r with
  | .ok _ =>
    let t := s.i2cSucceeds s.startCode .addr (if s.i2c.owned then .repStart else .start)
    { t with i2c := { t.i2c with owned := true } }
  | .fault => s.i2cFails s.startCode []
  | .nack => s

/-- I2B, address byte (R223). -/
def i2bAddr (r : BusReply) (s : State) : State :=
  match r with
  | .ok _ => s.i2cSucceeds s.addressCode (if s.i2c.dr.getLsbD 0 then .mr else .mt) (.addr s.i2c.dr .a)
  | .nack => s.i2cFails s.addressCode [.addr s.i2c.dr .n]
  | .fault => s.i2cFails s.addressCode [.fault]

/-- I2B, data byte (R224). -/
def i2bData (r : BusReply) (s : State) : State :=
  match r with
  | .ok _ => s.i2cSucceeds s.params.stMtDataAck .mt (.data s.i2c.dr .a)
  | .nack => s.i2cFails s.params.stMtDataAck [.data s.i2c.dr .n]
  | .fault => s.i2cFails s.params.stMtDataAck [.fault]

/-- I2B, read (R225). The master drives the acknowledge bit: `more` is whether it acknowledges. The environment has no
outcome `nack` for a read: such a turn passes (DEDUCED, log entry 14). After a failed read `I2C.dr` is a free value. -/
def i2bRead (more : Bool) (r : BusReply) (s : State) : State :=
  let okcode := if more then s.params.stMrDataAck else s.params.stMrDataNack
  match r with
  | .ok v =>
    (s.setI2cData v).i2cSucceeds okcode (if more then .mr else .mrEnd) (.read v (if more then .a else .n))
  | .fault => (s.setI2cData (Config.drawByte s.draws)).i2cFails okcode [.fault]
  | .nack => s

/-- I2B, by the pending operation and the phase (R220). -/
def i2bStep (r : BusReply) (s : State) : State :=
  match s.i2c.op, s.i2c.ph with
  | some .start, _ => i2bStart r s
  | some .write, .addr => i2bAddr r s
  | some .write, .mt => i2bData r s
  | some .readAck, .mr => i2bRead true r s
  | some .readNack, .mr => i2bRead false r s
  | _, _ => s

/-! ### The reference device (R254), environment -/

/-- The protocol state a drawn number stands for. -/
def devPhaseOf (b : BitVec 3) : DevPhase :=
  if b = 0 then .idle else if b = 1 then .sel else if b = 2 then .addrW else if b = 3 then .dataW else .selR

/-- The device after a second data byte in one transaction: every part of its state is a free value (R254, U22). -/
def Device.unspecified (k : Nat) : Device where
  eep := (List.range Config.eeSize).foldl (fun m a => Memory.write Config.eeBlank m a (Config.drawEeprom k a)) []
  dptr := Config.drawPointer k
  dst := devPhaseOf (Config.drawDevPhase k)
  stored := true
  declinesLeft := Config.drawDeclines k

/-- The 11-bit pointer with these bits [10:8] and [7:0]. -/
def pointerWith (high : BitVec 3) (low : Byte) : EepromAddr := BitVec.ofNat 11 (256 * high.toNat + low.toNat)

/-- The device at an address byte (R254): it answers the select nibble 0b1010 when it is waiting for a select byte,
unless it declines, which leaves it one decline fewer. What it does when it is not waiting for one: DESIGN CHOICE, log
entry 15. That a device which declines goes to Idle, as after any address byte that is not its own, and keeps its pointer:
DESIGN CHOICE, log entry 16. -/
def Device.onAddress (d : Device) (declines : Bool) (b : Byte) : BusReply × Device :=
  match d.dst with
  | .sel =>
    if b.extractLsb' 4 4 ≠ 0b1010 then (.nack, { d with dst := .idle })
    else if declines then (.nack, { d with dst := .idle, declinesLeft := d.declinesLeft - 1 })
    else
      (.ok 0, { d with
        dptr := pointerWith (b.extractLsb' 1 3) (d.dptr.extractLsb' 0 8)
        dst := if b.getLsbD 0 then .selR else .addrW })
  | .idle => (.nack, d)
  | .addrW => (.nack, d)
  | .dataW => (.nack, d)
  | .selR => (.nack, d)

/-- The device at a data byte (R254); `k` numbers the free values of the second one. A byte it is not waiting for
is not acknowledged: DESIGN CHOICE, log entry 15. -/
def Device.onData (d : Device) (k : Nat) (b : Byte) : BusReply × Device :=
  match d.dst with
  | .addrW => (.ok 0, { d with dptr := pointerWith (d.dptr.extractLsb' 8 3) b, dst := .dataW, stored := false })
  | .dataW =>
    if d.stored then (if Config.drawAck k then .ok 0 else .nack, Device.unspecified k)
    else (.ok 0, { d with eep := Memory.write Config.eeBlank d.eep d.dptr.toNat b, stored := true })
  | .idle => (.nack, d)
  | .sel => (.nack, d)
  | .selR => (.nack, d)

/-- The device at a read (R254): it drives the byte at its pointer, which then advances. With no device driving the
lines the byte is a free value: DESIGN CHOICE, log entry 15. -/
def Device.onRead (d : Device) (k : Nat) : BusReply × Device :=
  match d.dst with
  | .selR => (.ok (Memory.read Config.eeBlank d.eep d.dptr.toNat), { d with dptr := d.dptr + 1 })
  | .idle => (.ok (Config.drawByte k), d)
  | .sel => (.ok (Config.drawByte k), d)
  | .addrW => (.ok (Config.drawByte k), d)
  | .dataW => (.ok (Config.drawByte k), d)

/-- The device may decline a select byte: it has a write time (`EE_BUSY`) and a decline is left to it, so that it declines
a finite number of transactions only (R254). What the number counts: DESIGN CHOICE, log entry 16. -/
def State.deviceBusy (s : State) : Bool := s.params.eeBusy && decide (0 < s.dev.declinesLeft)

/-- The device's answer to the pending operation, and the device after it (R254). Only an operation that
the device answers changes it: log entry 17. A repeated start, like a start, begins a new transaction for the device, so
that the next data byte it stores is a first one again: DESIGN CHOICE, log entry 28. -/
def State.deviceReply (s : State) (declines : Bool) : BusReply × Device :=
  match s.i2c.op, s.i2c.ph with
  | some .start, _ => (.ok 0, { s.dev with dst := .sel, stored := false })
  | some .write, .addr => s.dev.onAddress (declines && s.deviceBusy) s.i2c.dr
  | some .write, .mt => s.dev.onData s.draws s.i2c.dr
  | some .readAck, .mr => s.dev.onRead s.draws
  | some .readNack, .mr => s.dev.onRead s.draws
  | _, _ => (.nack, s.dev)

/-- I2B with the reference device on the bus (R220, R254). -/
def i2bDeviceStep (declines : Bool) (s : State) : State :=
  if s.i2c.op = none then s
  else i2bStep (s.deviceReply declines).1 { s with dev := (s.deviceReply declines).2, draws := s.draws + 1 }

/-! ### IRQ -/

/-- IRQ (R270, R272): enabled while `CTX` = FG and the source is pending, and one that `IRQ_ORDER` takes now (R269). -/
def irqStep (src : IrqSource) (honoured : Bool) (s : State) : Result :=
  if s.ctx = .fg ∧ s.mayTake src = true then takeInterrupt src honoured s else .next s

/-! ### Reset -/

/-- The power-on reset as an event of a run (R290, R292): every piece of the block's state goes to its reset value; host
memory and the device keep their contents, and a device left in the middle of a transaction takes it as `Reinit`.
DEDUCED, log entry 24. -/
def powerOn (s : State) : State :=
  { State.resetWith s.params with
    mem := s.mem
    dev := if s.i2c.owned then s.dev.release else s.dev
    draws := s.draws
    turns := s.turns }

end Sys2Proof.Machine
end

