-- ==== Sys2Proof/Machine/Eeprom.lean ====
section
/-!
DEFINITION. The meanings of the EEPROM commands (44_eeprom.md): the sequencer over the I2C unit, with a status check after
every step (R248). Each is one micro-step of the command in flight.
-/

namespace Sys2Proof.Machine

/-- `EE_INIT` (R242): the micro-step of `I2C_INIT` with tier = 1 and the unit's own address. -/
def execEeInit (s : State) : Result :=
  microStep .eeInit s fun k =>
    match k.uph with
    | 0 => .next (s.i2cSetup 1 s.params.eeLocalAddr).complete
    | _ => .fault .noMicroStep

/-- `EE_WRITE` (R244). -/
def execEeWrite (ea : EepromAddr) (data : Byte) (s : State) : Result :=
  microStep (.eeWrite ea data) s fun k =>
    match k.uph with
    | 0 => eepromIssue .start s k 1
    | 1 => eepromWait s.params.stStart s k 2
    | 2 => eepromSend (selectByte ea false) s k 3
    | 3 => eepromWait s.params.stMtSlaAck s k 4
    | 4 => eepromSend (lowAddress ea) s k 5
    | 5 => eepromWait s.params.stMtDataAck s k 6
    | 6 => eepromSend data s k 7
    | 7 => eepromWait s.params.stMtDataAck s k 8
    | 8 => eepromFinish s
    | _ => .fault .noMicroStep

/-- `EE_READ` (R246). The byte is stored before the last check, so it is stored on a mismatch too. -/
def execEeRead (ea : EepromAddr) (out : Addr) (s : State) : Result :=
  microStep (.eeRead ea out) s fun k =>
    match k.uph with
    | 0 => eepromIssue .start s k 1
    | 1 => eepromWait s.params.stStart s k 2
    | 2 => eepromSend (selectByte ea false) s k 3
    | 3 => eepromWait s.params.stMtSlaAck s k 4
    | 4 => eepromSend (lowAddress ea) s k 5
    | 5 => eepromWait s.params.stMtDataAck s k 6
    | 6 => eepromIssue .start s k 7
    | 7 => eepromWait s.params.stRepStart s k 8
    | 8 => eepromSend (selectByte ea true) s k 9
    | 9 => eepromWait s.params.stMrSlaAck s k 10
    | 10 => eepromIssue .readNack s k 11
    | 11 =>
      holdUntil s.i2c.done s <|
        storeByte out.toNat s.i2c.dr s fun t => checkStatus s.params.stMrDataNack t k 12
    | 12 => eepromFinish s
    | _ => .fault .noMicroStep

end Sys2Proof.Machine
end

