-- ==== Sys2Proof/Machine/I2cUnit.lean ====
section
/-!
DEFINITION. The meanings of the I2C commands (43_i2c.md). Each is one micro-step of the command in flight; a primitive
is an issue step and a wait step (R205), between which I2B ends the operation (Machine/Agents.lean).
-/

namespace Sys2Proof.Machine

/-- `I2C_INIT` (R202). -/
def execI2cInit (tier : BitVec 2) (addr7 : BitVec 7) (s : State) : Result :=
  microStep (.i2cInit tier addr7) s fun k =>
    match k.uph with
    | 0 => .next (s.i2cSetup tier addr7).complete
    | _ => .fault .noMicroStep

/-- `I2C_START` (R208). -/
def execI2cStart (s : State) : Result :=
  microStep .i2cStart s fun k =>
    match k.uph with
    | 0 => i2cIssue .start s fun t => .next (t.goto k 1)
    | 1 => holdUntil s.i2c.done s <| .next s.complete
    | _ => .fault .noMicroStep

/-- `I2C_WRITE` (R210). The phase is checked before the unit's enable, in the order of the rule's lines
(DEDUCED, log entry 10). -/
def execI2cWrite (b : Byte) (s : State) : Result :=
  microStep (.i2cWrite b) s fun k =>
    match k.uph with
    | 0 =>
      require (s.i2c.ph = .addr ∨ s.i2c.ph = .mt) .outOfSequence <|
        i2cIssue .write (s.setI2cData b) fun t => .next (t.goto k 1)
    | 1 => holdUntil s.i2c.done s <| .next s.complete
    | _ => .fault .noMicroStep

/-- `I2C_RDACK` (R212). -/
def execI2cRdack (s : State) : Result :=
  microStep .i2cRdack s fun k =>
    match k.uph with
    | 0 =>
      require (s.i2c.ph = .mr) .outOfSequence <|
        i2cIssue .readAck s fun t => .next (t.goto k 1)
    | 1 => holdUntil s.i2c.done s <| .next (s.setRet s.i2c.dr).complete
    | _ => .fault .noMicroStep

/-- `I2C_RDNACK` (R213). -/
def execI2cRdnack (s : State) : Result :=
  microStep .i2cRdnack s fun k =>
    match k.uph with
    | 0 =>
      require (s.i2c.ph = .mr) .outOfSequence <|
        i2cIssue .readNack s fun t => .next (t.goto k 1)
    | 1 => holdUntil s.i2c.done s <| .next (s.setRet s.i2c.dr).complete
    | _ => .fault .noMicroStep

/-- `I2C_STOP` (R216). -/
def execI2cStop (s : State) : Result :=
  microStep .i2cStop s fun k =>
    match k.uph with
    | 0 => require (s.i2c.en = true) .notInitialised <| .next s.stopStep.complete
    | _ => .fault .noMicroStep

/-- `I2C_STATUS` (R218). -/
def execI2cStatus (s : State) : Result :=
  microStep .i2cStatus s fun k =>
    match k.uph with
    | 0 => .next (s.setRet (statusCode s.i2c.sr)).complete
    | _ => .fault .noMicroStep

end Sys2Proof.Machine
end

