-- ==== Sys2Proof/Machine/Spi.lean ====
section
/-!
DEFINITION. The meanings of the SPI commands (42_spi.md). Each is one micro-step of the command in flight.
-/

namespace Sys2Proof.Machine

/-- What both init commands store (R172, R173): the build-time parameters, the enable and the role. -/
def Spi.configured (u : Spi) (p : Params) (master : Bool) : Spi :=
  { u with
    mstr := master
    ie := p.spiIntEn
    dord := p.spiDord
    cpol := p.spiCpol
    clkdiv := p.spiClkdiv
    x2 := p.spi2x
    en := true
    inited := true }

/-- The line directions of a master: it drives chip-select, clock and data-out (R172). -/
def Spi.masterLines (u : Spi) : Spi :=
  { u with dirCs := .output, dirCk := .output, dirMo := .output, dirSo := .input }

/-- The line directions of a slave: it drives only its data-out (R173). -/
def Spi.slaveLines (u : Spi) : Spi :=
  { u with dirCs := .input, dirCk := .input, dirMo := .input, dirSo := .output }

/-- `SPI_INITM` (R172). -/
def execSpiInitm (s : State) : Result :=
  microStep .spiInitm s fun k =>
    match k.uph with
    | 0 => .next ({ s with spi := (s.spi.configured s.params true).masterLines } : State).complete
    | _ => .fault .noMicroStep

/-- `SPI_INITS` (R173). -/
def execSpiInits (s : State) : Result :=
  microStep .spiInits s fun k =>
    match k.uph with
    | 0 => .next ({ s with spi := (s.spi.configured s.params false).slaveLines } : State).complete
    | _ => .fault .noMicroStep

/-- `SPI_SEND` (R175). -/
def execSpiSend (b : Byte) (s : State) : Result :=
  microStep (.spiSend b) s fun k =>
    match k.uph with
    | 0 => .next ((s.spiPut b).goto k 1)
    | 1 => holdUntil s.spi.tc s <| .next s.complete
    | _ => .fault .noMicroStep

/-- `SPI_RECV` (R177). -/
def execSpiRecv (s : State) : Result :=
  microStep .spiRecv s fun k =>
    match k.uph with
    | 0 => holdUntil s.spi.tc s <| .next (s.spiGet.setRet s.spi.dr).complete
    | _ => .fault .noMicroStep

/-- `SPI_SENDS` (R180). -/
def execSpiSends (ptr : Addr) (s : State) : Result :=
  microStep (.spiSends ptr) s fun k =>
    match k.uph with
    | 0 => .next (s.goto { k with sp := ptr.toNat } 1)
    | 1 => loadByte k.sp s fun b => .next (s.goto { k with tmp := b } 2)
    | 2 => .next ((s.spiPut k.tmp).goto k 3)
    | 3 =>
      holdUntil s.spi.tc s <|
        if k.tmp = 0 then .next s.complete else .next (s.goto { k with sp := k.sp + 1 } 1)
    | _ => .fault .noMicroStep

/-- `SPI_RECVS` (R182). -/
def execSpiRecvs (ptr : Addr) (s : State) : Result :=
  microStep (.spiRecvs ptr) s fun k =>
    match k.uph with
    | 0 =>
      holdUntil s.spi.tc s <|
        .next (s.spiGet.goto { k with si := s.spi.dr, sn := s.spi.dr, sp := ptr.toNat } 1)
    | 1 =>
      if k.sn = 0 then .next (s.goto k 2)
      else
        holdUntil s.spi.tc s <|
          storeByte k.sp s.spi.dr s fun t => .next (t.spiGet.goto { k with sp := k.sp + 1, sn := k.sn - 1 } 1)
    | 2 => storeByte k.sp 0 s fun t => .next t.complete
    | _ => .fault .noMicroStep

/-- `SPI_SETCB` (R184). -/
def execSpiSetcb (dir reg : Bool) (fn : FnRef) (s : State) : Result :=
  microStep (.spiSetcb dir reg fn) s fun k =>
    match k.uph with
    | 0 => .next ({ s with spi := { s.spi with cb := slotValue reg fn } } : State).complete
    | _ => .fault .noMicroStep

end Sys2Proof.Machine
end

