-- ==== Sys2Proof/Machine/System.lean ====
section
/-!
DEFINITION. The meaning of `IRET` (60_exceptions.md rule R275).
-/

namespace Sys2Proof.Machine

/-- `IRET` (R275). -/
def execIret (s : State) : Result :=
  microStep .iret s fun k =>
    match k.uph with
    | 0 => .next s.returnFromHandler
    | _ => .fault .noMicroStep

end Sys2Proof.Machine
end

