-- ==== Sys2Proof/Machine/Uart.lean ====
section
/-!
DEFINITION. The meanings of the UART commands (41_uart.md). Each is one micro-step of the command in flight, at the
micro-phase its record holds.
-/

namespace Sys2Proof.Machine

/-- The configuration `UART_INIT` stores (R132). No flag is written. -/
def Uart.configured (u : Uart) (baud : BitVec 32) (safe : Byte) (par wlen : BitVec 2) (txm rxm rate : Bool)
    (div16 : BitVec 16) : Uart :=
  { u with
    rate := rate
    par := par
    wlen := wlen
    baud := baud
    txm := txm
    rxm := rxm
    safe := safe
    divh := divHigh div16
    divl := divLow div16
    rxen := true
    txen := true
    txie := txm
    rxie := rxm
    inited := true }

/-- `UART_INIT` (R132). -/
def execUartInit (baud : BitVec 32) (safe : Byte) (par wlen : BitVec 2) (txm rxm rate : Bool) (s : State) : Result :=
  microStep (.uartInit baud safe par wlen txm rxm rate) s fun k =>
    match k.uph with
    | 0 =>
      match baudDivisor s.params.fClk baud.toNat with
      | none => .refused .divisorRange
      | some div16 =>
        .next ({ s with uart := s.uart.configured baud safe par wlen txm rxm rate div16 } : State).complete
    | _ => .fault .noMicroStep

/-- `UART_SEND` (R135). -/
def execUartSend (b : Byte) (s : State) : Result :=
  microStep (.uartSend b) s fun k =>
    match k.uph with
    | 0 => holdUntil s.uart.txe s <| .next (s.sendStep b).complete
    | _ => .fault .noMicroStep

/-- `UART_RECV` (R138). -/
def execUartRecv (s : State) : Result :=
  microStep .uartRecv s fun k =>
    match k.uph with
    | 0 => holdUntil s.uart.rxc s <| .next (s.recvStep.setRet s.uart.recvValue).complete
    | _ => .fault .noMicroStep

/-- `UART_SENDS` (R142). The terminator test is on the byte as read, and the terminator is sent. -/
def execUartSends (ptr : Addr) (s : State) : Result :=
  microStep (.uartSends ptr) s fun k =>
    match k.uph with
    | 0 => .next (s.goto { k with sp := ptr.toNat } 1)
    | 1 => loadByte k.sp s fun b => .next (s.goto { k with tmp := b } 2)
    | 2 =>
      holdUntil s.uart.txe s <|
        if k.tmp = 0 then .next (s.sendStep k.tmp).complete
        else .next ((s.sendStep k.tmp).goto { k with sp := k.sp + 1 } 1)
    | _ => .fault .noMicroStep

/-- `UART_RECVS` (R145). -/
def execUartRecvs (ptr : Addr) (s : State) : Result :=
  microStep (.uartRecvs ptr) s fun k =>
    match k.uph with
    | 0 =>
      holdUntil s.uart.rxc s <|
        .next (s.recvStep.goto { k with si := s.uart.recvValue, sn := s.uart.recvValue, sp := ptr.toNat } 1)
    | 1 =>
      if k.sn = 0 then .next (s.goto k 2)
      else
        holdUntil s.uart.rxc s <|
          storeByte k.sp s.uart.recvValue s fun t =>
            .next (t.recvStep.goto { k with sp := k.sp + 1, sn := k.sn - 1 } 1)
    | 2 => storeByte k.sp 0 s fun t => .next t.complete
    | _ => .fault .noMicroStep

/-- `UART_SETCB` (R148). -/
def execUartSetcb (dir reg : Bool) (fn : FnRef) (s : State) : Result :=
  microStep (.uartSetcb dir reg fn) s fun k =>
    match k.uph with
    | 0 =>
      if dir then .next ({ s with uart := { s.uart with cbRx := slotValue reg fn } } : State).complete
      else .next ({ s with uart := { s.uart with cbTx := slotValue reg fn } } : State).complete
    | _ => .fault .noMicroStep

end Sys2Proof.Machine
end

