-- ==== Sys2Proof/Machine/Dispatch.lean ====
section
/-!
DEFINITION. The dispatch of a command to its meaning, one arm per constructor. `exec i s` is one atomic micro-step of
the command `i`, in flight in the current context of `s`.
-/

namespace Sys2Proof.Machine

def exec (i : Instr) (s : State) : Host.Outcome State Fault Refusal :=
  match i with
  | .iret => Sys2Proof.Machine.execIret s
  | .uartInit baud safe par wlen txm rxm rate => Sys2Proof.Machine.execUartInit baud safe par wlen txm rxm rate s
  | .uartSend b => Sys2Proof.Machine.execUartSend b s
  | .uartRecv => Sys2Proof.Machine.execUartRecv s
  | .uartSends ptr => Sys2Proof.Machine.execUartSends ptr s
  | .uartRecvs ptr => Sys2Proof.Machine.execUartRecvs ptr s
  | .uartSetcb dir reg fn => Sys2Proof.Machine.execUartSetcb dir reg fn s
  | .spiInitm => Sys2Proof.Machine.execSpiInitm s
  | .spiInits => Sys2Proof.Machine.execSpiInits s
  | .spiSend b => Sys2Proof.Machine.execSpiSend b s
  | .spiRecv => Sys2Proof.Machine.execSpiRecv s
  | .spiSends ptr => Sys2Proof.Machine.execSpiSends ptr s
  | .spiRecvs ptr => Sys2Proof.Machine.execSpiRecvs ptr s
  | .spiSetcb dir reg fn => Sys2Proof.Machine.execSpiSetcb dir reg fn s
  | .i2cInit tier addr7 => Sys2Proof.Machine.execI2cInit tier addr7 s
  | .i2cStart => Sys2Proof.Machine.execI2cStart s
  | .i2cWrite b => Sys2Proof.Machine.execI2cWrite b s
  | .i2cRdack => Sys2Proof.Machine.execI2cRdack s
  | .i2cRdnack => Sys2Proof.Machine.execI2cRdnack s
  | .i2cStop => Sys2Proof.Machine.execI2cStop s
  | .i2cStatus => Sys2Proof.Machine.execI2cStatus s
  | .eeInit => Sys2Proof.Machine.execEeInit s
  | .eeWrite ea data => Sys2Proof.Machine.execEeWrite ea data s
  | .eeRead ea out => Sys2Proof.Machine.execEeRead ea out s

end Sys2Proof.Machine
end

