-- ==== Sys2Proof/Machine/Turns.lean ====
section
/-!
DEFINITION. One turn of the machine: the agent that the schedule names takes one atomic step (00_scope.md rules R6 and
R7, 20_memory.md rule R89). Sys2Proof/Machine/Step.lean calls these.
-/

namespace Sys2Proof.Machine

/-- CMD: fetch the word in flight in the current context, decode it, run its micro-step. With nothing in flight CMD is
not enabled. -/
def cmdStep (s : State) : Result :=
  match s.cur with
  | none => .next s
  | some k =>
    match decode k.word with
    | .error _ => .refused .illegalCommand
    | .ok i => exec i s

/-- The agent named by the turn takes its step. -/
def takeTurn (t : Turn) (s : State) : Result :=
  match t with
  | .issue c w => hostIssue c w s
  | .hostWrite a v => hostWrite a v s
  | .cmd => cmdStep s
  | .utx => .next (utxStep s)
  | .urx o => .next (urxStep o s)
  | .spxMaster p => .next (spxMasterStep p s)
  | .spxSlave m => .next (spxSlaveStep m s)
  | .i2b r => .next (i2bStep r s)
  | .i2bDevice declines => .next (i2bDeviceStep declines s)
  | .irq src honoured => irqStep src honoured s
  | .powerOn => .next (powerOn s)

/-- The state in which CMD's turn is next and the word is the command in flight, just issued, in the current context. -/
def State.withCommand (s : State) (w : Word) : State :=
  { s.setCur (some (InFlight.issued w)) with turns := .cmd :: s.turns }

end Sys2Proof.Machine
end

