-- ==== Sys2Proof/Machine/Step.lean ====
section
/-!
DEFINITION. The step: the first turn of the schedule is taken by the agent it names. With no turn left the block does
nothing (70_reset_and_hazards.md rule R291), and the step answers the state it was given.
-/

namespace Sys2Proof.Machine

/-- One atomic step of the machine. -/
def step (s : State) : Host.Outcome State Fault Refusal :=
  match s.turns with
  | [] => .next s
  | t :: rest => takeTurn t { s with turns := rest }

/-- The command word placed where the next step fetches it: in flight at u0 in the current context, and CMD's turn next.
It stands for HOST's issue of the word (log entry 1). -/
def State.withFetchWord (s : State) (nbits w : Nat) : State :=
  s.withCommand (BitVec.ofNat 64 (w % 2 ^ nbits))

end Sys2Proof.Machine
end

