-- ==== Sys2Proof/Machine/Assembler.lean ====
section
/-!
DEFINITION. The assembler syntax of 30_encoding.md rules R117 and R118: one command per line, `MNEMONIC` and then
`name=value` operands separated by commas, in any order. What the rules leave open (blanks, an operand that is unknown,
given twice, or missing without a default) is log entry 22.
-/

namespace Sys2Proof.Machine

/-- A run of characters. -/
abbrev Text := List Char

/-- The text before a `;`: a comment runs from it to the end of the line. -/
def uncommented : Text → Text
  | [] => []
  | c :: cs => if c = ';' then [] else c :: uncommented cs

/-- The text without its leading blanks. -/
def dropBlanks : Text → Text
  | [] => []
  | c :: cs => if c = ' ' ∨ c = '\t' then dropBlanks cs else c :: cs

/-- The text without leading and trailing blanks. -/
def trimmed (t : Text) : Text := (dropBlanks (dropBlanks t).reverse).reverse

/-- The text up to the first character `c`, and the text after it when there is one. -/
def cutAt (c : Char) : Text → Text × Option Text
  | [] => ([], none)
  | d :: ds => if d = c then ([], some ds) else ((d :: (cutAt c ds).1), (cutAt c ds).2)

/-- The pieces of the text between the characters `c`. -/
def pieces (c : Char) : Text → List Text
  | [] => [[]]
  | d :: ds =>
    if d = c then [] :: pieces c ds
    else
      match pieces c ds with
      | [] => [[d]]
      | p :: ps => (d :: p) :: ps

/-- The value of a digit, in a base of at most 16. -/
def digitValue (base : Nat) (c : Char) : Option Nat :=
  let n := c.toNat
  let v := if 48 ≤ n ∧ n ≤ 57 then some (n - 48) else if 97 ≤ n ∧ n ≤ 102 then some (n - 87)
    else if 65 ≤ n ∧ n ≤ 70 then some (n - 55) else none
  v.filter (· < base)

/-- The number that digits continue. -/
def digitsFrom (base : Nat) : Nat → Text → Option Nat
  | n, [] => some n
  | n, c :: cs =>
    match digitValue base c with
    | none => none
    | some d => digitsFrom base (base * n + d) cs

/-- A number: decimal or `0x` hexadecimal. -/
def numberOf : Text → Option Nat
  | [] => none
  | '0' :: 'x' :: d :: ds => digitsFrom 16 0 (d :: ds)
  | d :: ds => digitsFrom 10 0 (d :: ds)

/-- A number that fits `n` bits. -/
def fieldOf (n : Nat) (t : Text) : Option (BitVec n) :=
  match numberOf t with
  | none => none
  | some v => if v < 2 ^ n then some (BitVec.ofNat n v) else none

/-- One of a list of words, each with its value. -/
def wordFrom {α : Type} (table : List (String × α)) (t : Text) : Option α :=
  match table.find? fun row => row.1.toList == t with
  | none => none
  | some row => some row.2

/-- A function reference: `none` clears the slot, a number registers it. -/
def referenceOf (t : Text) : Option (Bool × FnRef) :=
  if t = "none".toList then some (false, 0)
  else
    match fieldOf 16 t with
    | none => none
    | some f => some (true, f)

/-- A line in its parts: the mnemonic, and its operands by name. -/
structure Line where
  mnemonic : Text
  operands : List (Text × Text)
deriving DecidableEq, Repr

/-- An operand `name=value`. -/
def operandOf (t : Text) : Option (Text × Text) :=
  match cutAt '=' t with
  | (_, none) => none
  | (n, some v) => some (trimmed n, trimmed v)

/-- Every element of the list, if every one has a value. -/
def allOf {α β : Type} (f : α → Option β) : List α → Option (List β)
  | [] => some []
  | a :: as =>
    match f a, allOf f as with
    | some b, some bs => some (b :: bs)
    | _, _ => none

/-- The parts of a line. -/
def lineOf (t : Text) : Option Line :=
  match cutAt ' ' (trimmed (uncommented t)) with
  | (m, none) => some ⟨m, []⟩
  | (m, some rest) =>
    match allOf operandOf (pieces ',' rest) with
    | none => none
    | some ops => some ⟨m, ops⟩

/-- The line's operands are each one of these names, and none is given twice. -/
def Line.only (l : Line) (names : List String) : Bool :=
  l.operands.all (fun op => names.any fun n => n.toList == op.1) && decide (l.operands.map Prod.fst).Nodup

/-- The value of an operand that has no default. -/
def Line.operand {α : Type} (l : Line) (name : String) (read : Text → Option α) : Option α :=
  match l.operands.find? fun op => op.1 == name.toList with
  | none => none
  | some op => read op.2

/-- The value of an operand with a default. -/
def Line.operandOr {α : Type} (l : Line) (name : String) (default : α) (read : Text → Option α) : Option α :=
  match l.operands.find? fun op => op.1 == name.toList with
  | none => some default
  | some op => read op.2

/-- The operands of `UART_INIT`, with the defaults of R117; `baud` has none. -/
def uartInitOf (l : Line) : Option Instr :=
  match l.operand "baud" (fieldOf 32), l.operandOr "par" 0 (wordFrom [("none", 0), ("odd", 1), ("even", 2)]),
    l.operandOr "w" 3 (wordFrom [("5", 0), ("6", 1), ("7", 2), ("8", 3)]),
    l.operandOr "tx" false (wordFrom [("poll", false), ("int", true)]),
    l.operandOr "rx" false (wordFrom [("poll", false), ("int", true)]),
    l.operandOr "rate" false (wordFrom [("x1", false), ("x2", true)]), l.operandOr "safe" 0 (fieldOf 8) with
  | some baud, some par, some wlen, some txm, some rxm, some rate, some safe =>
    some (.uartInit baud safe par wlen txm rxm rate)
  | _, _, _, _, _, _, _ => none

/-- A command with the one operand of that name. -/
def unary {α : Type} (l : Line) (name : String) (read : Text → Option α) (mk : α → Instr) : Option Instr :=
  if l.only [name] then
    match l.operand name read with
    | none => none
    | some a => some (mk a)
  else none

/-- A command with the two operands of those names. -/
def binary {α β : Type} (l : Line) (n₁ n₂ : String) (read₁ : Text → Option α) (read₂ : Text → Option β)
    (mk : α → β → Instr) : Option Instr :=
  if l.only [n₁, n₂] then
    match l.operand n₁ read₁, l.operand n₂ read₂ with
    | some a, some b => some (mk a b)
    | _, _ => none
  else none

/-- A command without operands. -/
def nullary (l : Line) (i : Instr) : Option Instr := if l.only [] then some i else none

/-- `dir=tx|rx`. -/
def directionOf : Text → Option Bool := wordFrom [("tx", false), ("rx", true)]

/-- `tier=10k|100k|400k`. -/
def tierOf : Text → Option (BitVec 2) := wordFrom [("10k", 0), ("100k", 1), ("400k", 2)]

/-- The mnemonics and what each makes of the line: the 24 commands (R117), and the two pseudo-instructions (R118). -/
def assemblers : List (String × (Line → Option Instr)) :=
  [("IRET", fun l => nullary l .iret),
    ("UART_INIT", fun l => if l.only ["baud", "par", "w", "tx", "rx", "rate", "safe"] then uartInitOf l else none),
    ("UART_SEND", fun l => unary l "b" (fieldOf 8) .uartSend),
    ("UART_RECV", fun l => nullary l .uartRecv),
    ("UART_SENDS", fun l => unary l "s" (fieldOf 16) .uartSends),
    ("UART_RECVS", fun l => unary l "buf" (fieldOf 16) .uartRecvs),
    ("UART_SETCB", fun l => binary l "dir" "fn" directionOf referenceOf fun d r => .uartSetcb d r.1 r.2),
    ("UART_CLRCB", fun l => unary l "dir" directionOf Instr.uartClrcb),
    ("SPI_INITM", fun l => nullary l .spiInitm),
    ("SPI_INITS", fun l => nullary l .spiInits),
    ("SPI_SEND", fun l => unary l "b" (fieldOf 8) .spiSend),
    ("SPI_RECV", fun l => nullary l .spiRecv)] ++
  [("SPI_SENDS", fun l => unary l "s" (fieldOf 16) .spiSends),
    ("SPI_RECVS", fun l => unary l "buf" (fieldOf 16) .spiRecvs),
    ("SPI_SETCB", fun l => unary l "fn" referenceOf fun r => .spiSetcb false r.1 r.2),
    ("SPI_CLRCB", fun l => nullary l Instr.spiClrcb),
    ("I2C_INIT", fun l => binary l "tier" "addr" tierOf (fieldOf 7) .i2cInit),
    ("I2C_START", fun l => nullary l .i2cStart),
    ("I2C_WRITE", fun l => unary l "b" (fieldOf 8) .i2cWrite),
    ("I2C_RDACK", fun l => nullary l .i2cRdack),
    ("I2C_RDNACK", fun l => nullary l .i2cRdnack),
    ("I2C_STOP", fun l => nullary l .i2cStop),
    ("I2C_STATUS", fun l => nullary l .i2cStatus),
    ("EE_INIT", fun l => nullary l .eeInit),
    ("EE_WRITE", fun l => binary l "a" "d" (fieldOf 11) (fieldOf 8) .eeWrite),
    ("EE_READ", fun l => binary l "a" "out" (fieldOf 11) (fieldOf 16) .eeRead)]

/-- The command that a line of assembler text stands for. -/
def assembleLine (text : String) : Option Instr :=
  match lineOf text.toList with
  | none => none
  | some l =>
    match wordFrom assemblers l.mnemonic with
    | none => none
    | some mk => mk l

/-- The command word of a line of assembler text. -/
def assemble (text : String) : Option Word :=
  match assembleLine text with
  | none => none
  | some i => some (encode i)

end Sys2Proof.Machine
end

