-- ==== Sys2Proof/Safety.lean ====
section
/-!
DEFINITION. The terms that the statements use: the invariant of the machine, when a command is at a micro-step, what a
step leaves alone, when a run is over, and running a schedule.
-/

namespace Sys2Proof.Machine

/-! ### A command at a micro-step -/

/-- The command `i` is in flight in the current context, at micro-phase `n`, with the record `k`. -/
abbrev State.at (s : State) (i : Instr) (n : Nat) (k : InFlight) : Prop :=
  s.cur = some k ∧ k.instr = some i ∧ k.uph = n

/-- No overlap with the suspended foreground command (R278). -/
abbrev State.noOverlap (s : State) (i : Instr) : Prop := s.ctx = .isr → s.foregroundUses i = false

/-- `UART_SEND` and `UART_SENDS` are admitted (R131, R134, R279). -/
abbrev State.sendAdmitted (s : State) : Prop := s.uart.inited = true ∧ (s.ctx = .fg → s.uart.txm = false)

/-- `UART_RECV` and `UART_RECVS` are admitted (R131, R134, R279). -/
abbrev State.recvAdmitted (s : State) : Prop := s.uart.inited = true ∧ (s.ctx = .fg → s.uart.rxm = false)

/-- A store of the current context to the address meets no buffer of a suspended foreground command (R74). -/
abbrev State.storeFree (s : State) (a : Nat) : Prop := s.ctx = .isr → s.inBuffer s.fg a = false

/-- The byte belongs to the buffer of the string command in flight, which is not the host's to write: a received string's
n + 1 bytes once its prefix n is read, and the 256 it may become before; a sent string up to its terminator (R73, R74; the
extent is DEDUCED, log entry 9). -/
def InFlight.claims (s : State) (k : InFlight) (a : Nat) : Prop :=
  (∃ p, (decode k.word = .ok (.uartRecvs p) ∨ decode k.word = .ok (.spiRecvs p)) ∧
    p.toNat ≤ a ∧ a ≤ p.toNat + (if k.uph = 0 then 255 else k.si.toNat)) ∨
  ∃ p, (decode k.word = .ok (.uartSends p) ∨ decode k.word = .ok (.spiSends p)) ∧
    p.toNat ≤ a ∧ ∀ b, p.toNat ≤ b → b < a → s.readMem b ≠ 0

/-- The number of micro-steps of a command: its labels are u0 to u(n-1). -/
def microSteps : Instr → Nat
  | .iret => 1
  | .uartInit _ _ _ _ _ _ _ => 1
  | .uartSend _ => 1
  | .uartRecv => 1
  | .uartSends _ => 3
  | .uartRecvs _ => 3
  | .uartSetcb _ _ _ => 1
  | .spiInitm => 1
  | .spiInits => 1
  | .spiSend _ => 2
  | .spiRecv => 1
  | .spiSends _ => 4
  | .spiRecvs _ => 3
  | .spiSetcb _ _ _ => 1
  | .i2cInit _ _ => 1
  | .i2cStart => 2
  | .i2cWrite _ => 2
  | .i2cRdack => 2
  | .i2cRdnack => 2
  | .i2cStop => 1
  | .i2cStatus => 1
  | .eeInit => 1
  | .eeWrite _ _ => 9
  | .eeRead _ _ => 13

/-- The commands that store to host memory (R70). -/
def storesToMemory : Instr → Bool
  | .uartRecvs _ => true
  | .spiRecvs _ => true
  | .eeRead _ _ => true
  | _ => false

/-! ### What a step leaves alone -/

/-- The parts of the state that no micro-step but the return from a handler writes: the parameters, the context, the bank
of the other context, the dispatch log, the environment's schedule. -/
def SameAround (s t : State) : Prop :=
  t.params = s.params ∧ t.ctx = s.ctx ∧ t.cbLog = s.cbLog ∧ t.looped = s.looped ∧ t.turns = s.turns ∧
    (∀ c, c ≠ s.ctx → t.bank c = s.bank c)

/-- Every byte of host memory reads as before. -/
def SameMemory (s t : State) : Prop := ∀ a, t.readMem a = s.readMem a

/-- Every byte of host memory but the one at `a` reads as before. -/
def SameMemoryBut (a : Nat) (s t : State) : Prop := ∀ b, b ≠ a → t.readMem b = s.readMem b

/-- The I2C unit, the reference device and the count of free values are as before. -/
def SameI2c (s t : State) : Prop := t.i2c = s.i2c ∧ t.dev = s.dev ∧ t.draws = s.draws

/-- Everything outside the UART unit and the bank of the current context is as before. -/
def OutsideUart (s t : State) : Prop := t.spi = s.spi ∧ SameI2c s t ∧ SameMemory s t ∧ SameAround s t

/-- Everything outside the UART unit, host memory and the bank of the current context is as before. -/
def OutsideUartAndMemory (s t : State) : Prop := t.spi = s.spi ∧ SameI2c s t ∧ SameAround s t

/-- Everything outside the SPI unit and the bank of the current context is as before. -/
def OutsideSpi (s t : State) : Prop := t.uart = s.uart ∧ SameI2c s t ∧ SameMemory s t ∧ SameAround s t

/-- Everything outside the SPI unit, host memory and the bank of the current context is as before. -/
def OutsideSpiAndMemory (s t : State) : Prop := t.uart = s.uart ∧ SameI2c s t ∧ SameAround s t

/-- Everything outside the I2C unit, the device, the count of free values and the bank of the current context is as
before. -/
def OutsideI2c (s t : State) : Prop := t.uart = s.uart ∧ t.spi = s.spi ∧ SameMemory s t ∧ SameAround s t

/-- What a stop does to the reference device (R254). With the bus not owned there is no stop, and it is as before. With the
bus owned it keeps its memory and its pointer and releases itself (log entry 17), and a stop that ends no data write leaves
the declines that are left as they are (log entry 16). -/
def DeviceAfterStop (s t : State) : Prop :=
  (s.i2c.owned = false → t.dev = s.dev) ∧
    (s.i2c.owned = true →
      ∃ n, t.dev = { s.dev with dst := .idle, stored := false, declinesLeft := n } ∧
        (s.dev.dst ≠ .dataW ∨ s.dev.stored = false → n = s.dev.declinesLeft))

/-- Everything outside the I2C unit and the bank of the current context is as before. -/
def OutsideI2cUnit (s t : State) : Prop := OutsideI2c s t ∧ t.dev = s.dev ∧ t.draws = s.draws

/-- Everything outside the bank of the current context is as before. -/
def OutsideBank (s t : State) : Prop := t.uart = s.uart ∧ t.spi = s.spi ∧ SameI2c s t ∧ SameMemory s t ∧ SameAround s t

/-- The command in flight completes, and its context's results are as before (R9). -/
def Completes (s t : State) : Prop := t.bank s.ctx = { s.bank s.ctx with cur := none }

/-- The command in flight completes, and the byte stands in `RET` of its context (R21). -/
def CompletesWith (s t : State) (v : Byte) : Prop := t.bank s.ctx = { s.bank s.ctx with ret := v, cur := none }

/-- The command in flight completes, and the result stands in `RES` of its context (R22). -/
def CompletesResult (s t : State) (r : BitVec 1) : Prop := t.bank s.ctx = { s.bank s.ctx with res := r, cur := none }

/-- The command in flight goes on with the record `k`, and its context's results are as before (R25). -/
def GoesOn (s t : State) (k : InFlight) : Prop := t.bank s.ctx = { s.bank s.ctx with cur := some k }

/-! ### What HOST's issue of a command answers -/

/-- HOST's issue of the command in the current context is refused for the reason, or with no reason puts it in flight
(R24, R280). -/
def issueAnswers (s : State) (i : Instr) : Option Refusal → Prop
  | some r => hostIssue s.ctx (encode i) s = .refused r
  | none => hostIssue s.ctx (encode i) s = .next (s.setCur (some (InFlight.issued (encode i))))

/-- The members of a transfer class by their mnemonics, as R278 lists them. -/
def transferClassMembers : TransferClass → List String
  | .uartTx => ["UART_SEND", "UART_SENDS", "UART_INIT"]
  | .uartRx => ["UART_RECV", "UART_RECVS", "UART_INIT"]
  | .spi => ["SPI_INITM", "SPI_INITS", "SPI_SEND", "SPI_RECV", "SPI_SENDS", "SPI_RECVS"]
  | .i2c => ["I2C_INIT", "I2C_START", "I2C_WRITE", "I2C_RDACK", "I2C_RDNACK", "I2C_STOP", "I2C_STATUS", "EE_INIT",
      "EE_WRITE", "EE_READ"]

/-! ### The invariant -/

/-- The string pointer of a command in flight: a sent string's pointer has passed its address check from u2 on (R24,
R73). -/
def pointerBound : Instr → Nat → Nat
  | .uartSends _, n => if 2 ≤ n then 0xFFFF else 0x10000
  | .spiSends _, n => if 2 ≤ n then 0xFFFF else 0x10000
  | _, _ => 0x10000

/-- A command in flight is a legal command at one of its micro-steps, with its string pointer in range (R24, R25). -/
def InFlight.sound (k : InFlight) : Prop :=
  ∃ i, decode k.word = .ok i ∧ i.wellFormed = true ∧ k.uph < microSteps i ∧ k.sp ≤ pointerBound i k.uph

/-- The UART unit: the parity mode 3 is never stored (R27); the enables and interrupt enables are those of the one init
(R29, R33); no byte is unread before it; an unread byte fits the word length (R31); the error flags come with a byte, a parity
error only with parity on (R151); the divisor is that of the stored baud rate (R133). -/
structure Uart.inv (fClk : Nat) (u : Uart) : Prop where
  parity_legal : u.par ≠ 3
  txen_inited : u.txen = u.inited
  rxen_inited : u.rxen = u.inited
  txie_mode : u.txie = (u.inited && u.txm)
  rxie_mode : u.rxie = (u.inited && u.rxm)
  quiet_before_init : u.inited = false → u.rxc = false
  unread_fits : u.rxc = true → u.rxd &&& u.mask = u.rxd
  errors_with_byte : u.rxc = false → u.pe = false ∧ u.fe = false
  parity_error_needs_parity : u.pe = true → u.par ≠ 0
  divisor : u.inited = true → baudDivisor fClk u.baud.toNat = some (BitVec.ofNat 16 (256 * u.divh.toNat + u.divl.toNat))

/-- The line directions of a role (R35). -/
def Spi.linesOfRole (u : Spi) : Prop :=
  (u.dirCs, u.dirCk, u.dirMo, u.dirSo) =
    if u.mstr then (.output, .output, .output, .input) else (.input, .input, .input, .output)

/-- The SPI unit: enabled by its one init (R34); its lines and its build-time constants are those of the init (R35,
R172, R173); an exchange under way is a master's and has not ended (R37); no flag is up before init. -/
structure Spi.inv (p : Params) (u : Spi) : Prop where
  en_inited : u.en = u.inited
  quiet_before_init : u.inited = false → u.mstr = false ∧ u.ie = false ∧ u.tc = false ∧ u.busy = false
  lines : u.inited = true → u.linesOfRole
  constants : u.inited = true →
    u.ie = p.spiIntEn ∧ u.dord = p.spiDord ∧ u.cpol = p.spiCpol ∧ u.clkdiv = p.spiClkdiv ∧ u.x2 = p.spi2x
  busy_master : u.busy = true → u.mstr = true ∧ u.tc = false

/-- The I2C unit: the low bits of the status register are the prescaler (R42); a pending operation has not ended (R43);
a unit never initialised is at rest (R56); the bus is owned in the phases after a start and not in phase IDLE (R44,
R45). -/
structure I2c.inv (u : I2c) : Prop where
  low_bits : u.sr.toNat % 8 = u.ps.toNat
  pending_not_done : u.op ≠ none → u.done = false
  rest_before_init : u.en = false → u.ph = .idle ∧ u.op = none ∧ u.done = false
  idle_not_owned : u.ph = .idle → u.owned = false
  started_owned : u.ph ≠ .idle → u.ph ≠ .fail → u.owned = true

/-- The invariant of the machine. -/
structure Inv (s : State) : Prop where
  mem : Memory.wf Config.memBlank Config.memSize s.mem = true
  eeprom : Memory.wf Config.eeBlank Config.eeSize s.dev.eep = true
  handler_free : s.ctx = .fg → s.isr.cur = none
  foreground : ∀ k, s.fg.cur = some k → k.sound
  handler : ∀ k, s.isr.cur = some k → k.sound
  uart : s.uart.inv s.params.fClk
  spi : s.spi.inv s.params
  i2c : s.i2c.inv

/-! ### Admission along a run -/

/-- Every command in flight is still admitted in its context by the unit and the mode, and the commands of the two
contexts share no class (R278, R279). -/
def Admitted (s : State) : Prop :=
  (∀ c k i, (s.bank c).cur = some k → decode k.word = .ok i → modeRefusal c s i = none) ∧
    ∀ k i, s.isr.cur = some k → decode k.word = .ok i → s.foregroundUses i = false

/-- The operation that a command waits for at a micro-step of it (R205, R244, R246). -/
def awaitedOp : Instr → Nat → Option I2cOp
  | .i2cStart, 1 => some .start
  | .i2cWrite _, 1 => some .write
  | .i2cRdack, 1 => some .readAck
  | .i2cRdnack, 1 => some .readNack
  | .eeWrite _ _, 1 => some .start
  | .eeWrite _ _, 3 => some .write
  | .eeWrite _ _, 5 => some .write
  | .eeWrite _ _, 7 => some .write
  | .eeRead _ _, 1 => some .start
  | .eeRead _ _, 3 => some .write
  | .eeRead _ _, 5 => some .write
  | .eeRead _ _, 7 => some .start
  | .eeRead _ _, 9 => some .write
  | .eeRead _ _, 11 => some .readNack
  | _, _ => none

/-- Every operation handed to I2B is one that a command in flight waits for, in a phase in which I2B ends it (R205,
R220). -/
def Awaited (s : State) : Prop :=
  ∀ x, s.i2c.op = some x →
    admitsI2c x s.i2c.ph = true ∧
      ∃ c k i, (s.bank c).cur = some k ∧ decode k.word = .ok i ∧ awaitedOp i k.uph = some x

/-! ### Runs -/

/-- Nothing is under way: a run in such a state may be over (R50). -/
def State.atRest (s : State) : Bool :=
  s.fg.cur == none && s.isr.cur == none && !s.spi.busy && s.i2c.op == none

/-- `s` answers `t` after the turns of a schedule, and no turn is left over. -/
def runs (s : State) (schedule : List Turn) (t : State) : Prop :=
  Sys2Proof.core.run schedule.length { s with turns := schedule } = .next t

/-- An infinite run: in the n-th state the n-th turn is taken. -/
def InfiniteRun (states : Nat → State) (taken : Nat → Turn) : Prop :=
  ∀ n, takeTurn (taken n) (states n) = .next (states (n + 1))

/-! ### Fairness: what a claim that something eventually happens may use (R313) -/

/-- Weak fairness of a step: enabled from some point on, it is taken at or after that point. -/
def WeaklyFair (enabled : State → Prop) (takes : State → Turn → State → Prop) (states : Nat → State)
    (taken : Nat → Turn) : Prop :=
  ∀ n, (∀ m, n ≤ m → enabled (states m)) → ∃ m, n ≤ m ∧ takes (states m) (taken m) (states (m + 1))

/-- CMD is enabled: the micro-step of the command in flight is not held. A held micro-step answers the state it was
given, and every other one writes the command's record. -/
def cmdEnabled (s : State) : Prop := s.cur ≠ none ∧ cmdStep s ≠ .next s

/-- UTX is enabled (R150). -/
def utxEnabled (s : State) : Prop := s.uart.txen = true ∧ s.uart.txe = false

/-- SPX is enabled in master role (R186). -/
def spxMasterEnabled (s : State) : Prop := s.spi.en = true ∧ s.spi.mstr = true ∧ s.spi.busy = true

/-- IRQ may dispatch the source (R269, R270, R272). -/
def irqEnabled (src : IrqSource) (s : State) : Prop := s.ctx = .fg ∧ s.mayTake src = true

/-- The turn dispatches the source: it is IRQ's, and IRQ may dispatch it. A turn of IRQ that passes is no dispatch. -/
def isDispatchOf (src : IrqSource) (s : State) (t : Turn) : Prop := irqEnabled src s ∧ ∃ honoured, t = .irq src honoured

/-- The fairness that is built in: CMD, UTX, the master exchange and IRQ (R313), IRQ for each source by itself (R271). With
an `IRQ_ORDER` other than the default a source waits while another is to be taken before it: DEDUCED, log entry 31. -/
structure BuiltInFairness (states : Nat → State) (taken : Nat → Turn) : Prop where
  cmd : WeaklyFair cmdEnabled (fun _ t _ => t = .cmd) states taken
  utx : WeaklyFair utxEnabled (fun _ t _ => t = .utx) states taken
  spxMaster : WeaklyFair spxMasterEnabled (fun _ t _ => ∃ p, t = .spxMaster p) states taken
  irq : ∀ src, WeaklyFair (irqEnabled src) (fun s t _ => isDispatchOf src s t) states taken

/-- The premise `ResponsiveBus`: I2B is weakly fair (R227), that is, no operation stays pending for ever. DEDUCED, log
entry 31. -/
def ResponsiveBus (states : Nat → State) (taken : Nat → Turn) : Prop :=
  WeaklyFair (fun s => s.i2c.op ≠ none) (fun _ _ s' => s'.i2c.op = none) states taken

/-- The premise `LineDelivers`: LINE offers frames for ever. A frame that URX drops or ignores is an offer too: DESIGN
CHOICE, log entry 30. -/
def LineDelivers (states : Nat → State) (taken : Nat → Turn) : Prop :=
  ∀ n, ∃ m, n ≤ m ∧ ∃ o, taken m = .urx o ∧ (states m).offered o ≠ none

/-- The premise `PeerClocks`: the master at the other end runs exchanges for ever. A turn in which SPX is no slave, which
passes, is an exchange of that master too: DESIGN CHOICE, log entry 30. -/
def PeerClocks (taken : Nat → Turn) : Prop := ∀ n, ∃ m, n ≤ m ∧ ∃ b, taken m = .spxSlave b

/-- The premise `HostContinues`: HOST issues a next command whenever the current context stays free, and a handler whose
commands end, so that it is free again and again, is returned from: HOST issues its `IRET`. That a command of the handler
ends is no part of it: that is the matter of the other premises. R313 gives the premise its name only, so that what it
promises is a DESIGN CHOICE, log entry 29. -/
def HostContinues (states : Nat → State) (taken : Nat → Turn) : Prop :=
  WeaklyFair (fun s => s.cur = none) (fun s t _ => ∃ w, t = .issue s.ctx w) states taken ∧
    ∀ n, (states n).ctx = .isr →
      (∀ m, n ≤ m → ∃ j, m ≤ j ∧ ((states j).ctx = .fg ∨ (states j).isr.cur = none)) →
        ∃ m, n ≤ m ∧ ((states m).ctx = .fg ∨ taken m = .issue .isr (encode .iret))

/-- The premise `ForegroundProgress`: between two dispatches the foreground takes at least one step if one is
enabled. A foreground step is a micro-step of CMD in context FG, and one is enabled where CMD is enabled in that context at
some state between the two: DESIGN CHOICE, log entry 27. HOST's issue of a command in FG is no foreground step here, so a
foreground with no command in flight is promised nothing. -/
def ForegroundProgress (states : Nat → State) (taken : Nat → Turn) : Prop :=
  ∀ n m src src', n < m → isDispatchOf src (states n) (taken n) → isDispatchOf src' (states m) (taken m) →
    (∃ j, n < j ∧ j ≤ m ∧ (states j).ctx = .fg ∧ cmdEnabled (states j)) →
      ∃ j, n < j ∧ j < m ∧ (states j).ctx = .fg ∧ cmdEnabled (states j) ∧ taken j = .cmd

end Sys2Proof.Machine
end

