-- ==== Sys2Proof/Certificates/Slice0/Obligations.lean ====
section
/-!
DEFINITION. The statements about the model. Each docstring names the rules of spec/ that the statement formalises; where a
statement rests on a choice of the model, it names the log entry.
-/

open Sys2Proof Sys2Proof.Machine

/-! ### Encoding (30_encoding.md) -/

/-- Every command decodes from its own word, and the word is legal exactly when the command holds no reserved field value
(R100 to R110, R114, R116). -/
def Obligations.DecodeOfEncode : Prop :=
  ∀ i : Instr,
    decode (encode i) = .ok i ∧ legalCommand (encode i) = if i.wellFormed then some i else none

/-- A word that decodes is the word of the command it decodes to: no bit of it is dropped (R100, R112). -/
def Obligations.EncodeOfDecode : Prop := ∀ (w : Word) (i : Instr), decode w = .ok i → encode i = w

/-- The decoder is the function of R116: the row of the opcode table with `word AND mask = match`; with no such row, or
with a reserved field value of R114, the word is illegal. -/
def Obligations.DecoderFindsTheRow : Prop :=
  ∀ w : Word,
    (∀ r, (r ∈ opcodeTable ∧ w &&& r.mask = r.pattern) ↔ ∃ i, decode w = .ok i ∧ rowOf i = r) ∧
      (legalCommand w = none ↔
        (∀ r ∈ opcodeTable, w &&& r.mask ≠ r.pattern) ∨
          (∃ baud safe par wlen txm rxm rate,
            decode w = .ok (.uartInit baud safe par wlen txm rxm rate) ∧ (par = 3 ∨ baud = 0)) ∨
          (∃ reg fn, decode w = .ok (.spiSetcb true reg fn)) ∨ ∃ addr7, decode w = .ok (.i2cInit 3 addr7))

/-- Reserved opcodes and reserved bits are illegal (R112, R113). -/
def Obligations.ReservedEncodingsAreIllegal : Prop :=
  ∀ w : Word, ∀ op, op = (opcodeOf w).toNat →
    (op = 0 ∨ (0x02 ≤ op ∧ op ≤ 0x0F) ∨ (0x16 ≤ op ∧ op ≤ 0x1F) ∨ (0x27 ≤ op ∧ op ≤ 0x2F) ∨
        (0x37 ≤ op ∧ op ≤ 0x3F) ∨ 0x43 ≤ op →
      legalCommand w = none) ∧
    ((∃ r ∈ opcodeTable, (opcodeOf r.pattern).toNat = op ∧ w &&& r.mask ≠ r.pattern) → legalCommand w = none)

/-- The worked encodings of R120, from their assembler text to the word and back. -/
def Obligations.WorkedEncodings : Prop :=
  assemble "UART_INIT baud=9600, par=even, w=8, tx=poll, rx=poll, rate=x2, safe=0x3F" = some 0x10004E3F00002580 ∧
    legalCommand 0x10004E3F00002580 = some (.uartInit 9600 0x3F 2 3 false false true) ∧
    assemble "UART_SEND b=0x41" = some 0x1100000000000041 ∧
    legalCommand 0x1100000000000041 = some (.uartSend 0x41) ∧
    assemble "UART_RECVS buf=0x0200" = some 0x1400000000000200 ∧
    legalCommand 0x1400000000000200 = some (.uartRecvs 0x0200) ∧
    assemble "UART_SETCB dir=rx, fn=0x1234" = some 0x1500000000031234 ∧
    legalCommand 0x1500000000031234 = some (.uartSetcb true true 0x1234) ∧
    assemble "I2C_INIT tier=100k, addr=0x01" = some 0x3000000000000101 ∧
    legalCommand 0x3000000000000101 = some (.i2cInit 1 0x01) ∧
    assemble "I2C_WRITE b=0xA4" = some 0x32000000000000A4 ∧
    legalCommand 0x32000000000000A4 = some (.i2cWrite 0xA4) ∧
    assemble "EE_WRITE a=0x2A5, d=0x5A" = some 0x41000000005A02A5 ∧
    legalCommand 0x41000000005A02A5 = some (.eeWrite 0x2A5 0x5A) ∧
    assemble "EE_READ a=0x2A5, out=0x0300" = some 0x42000000030002A5 ∧
    legalCommand 0x42000000030002A5 = some (.eeRead 0x2A5 0x0300) ∧
    assemble "IRET" = some 0x0100000000000000 ∧ legalCommand 0x0100000000000000 = some .iret

/-! ### Steps and the issue of commands -/

/-- On CMD's turn the step runs the command in flight in the current context, and with a legal command's word placed by
`withFetchWord` the very next step runs that command at u0. The schedule is the model's (log entry 1). -/
def Obligations.StepRunsTheCommandInFlight : Prop :=
  (∀ (s : State) (rest : List Turn) (k : InFlight) (i : Instr),
      s.turns = .cmd :: rest → s.cur = some k → decode k.word = .ok i → step s = exec i { s with turns := rest }) ∧
    ∀ (s : State) (i : Instr), i.wellFormed = true →
      step (s.withFetchWord 64 (encode i).toNat) = exec i (s.setCur (some (InFlight.issued (encode i))))

/-- HOST may issue a legal command in context c only when `CTX` = c and `CUR[c]` = none; otherwise it is refused
`IssueWhileBusy` (R280). An illegal word is refused `IllegalCommand` (R115). An issue that is accepted puts the word in
flight at micro-phase 0, and nothing else changes (R24). -/
def Obligations.IssueDiscipline : Prop :=
  ∀ (s : State) (c : Ctx) (w : Word) (rest : List Turn), s.turns = .issue c w :: rest →
    (legalCommand w ≠ none → ¬(s.ctx = c ∧ (s.bank c).cur = none) → step s = .refused .issueWhileBusy) ∧
      (s.ctx = c → (s.bank c).cur = none → legalCommand w = none → step s = .refused .illegalCommand) ∧
      ∀ t, step s = .next t →
        s.ctx = c ∧ (s.bank c).cur = none ∧
          ∃ k : InFlight, k.word = w ∧ k.uph = 0 ∧
            t = { s with turns := rest }.setBank c { s.bank c with cur := some k }

/-- Initialisation and mode admission of the UART commands at issue (R131, R134), where no overlap refuses them. -/
def Obligations.UartAdmission : Prop :=
  ∀ (s : State) (i : Instr), s.cur = none → i.wellFormed = true → s.noOverlap i →
    ((∃ baud safe par wlen txm rxm rate, i = .uartInit baud safe par wlen txm rxm rate) →
      issueAnswers s i (if s.uart.inited = true then some .initTwice else none)) ∧
    ((∃ b, i = .uartSend b) ∨ (∃ p, i = .uartSends p) →
      issueAnswers s i (if s.uart.inited = false then some .notInitialised
        else if s.ctx = .fg ∧ s.uart.txm = true then some .pollingInInterruptMode else none)) ∧
    (i = .uartRecv ∨ (∃ p, i = .uartRecvs p) →
      issueAnswers s i (if s.uart.inited = false then some .notInitialised
        else if s.ctx = .fg ∧ s.uart.rxm = true then some .pollingInInterruptMode else none)) ∧
    ((∃ dir reg fn, i = .uartSetcb dir reg fn) →
      issueAnswers s i (if s.ctx = .isr then some .setcbInHandler else none))

/-- Admission of the SPI commands at issue (R171), where no overlap refuses them. -/
def Obligations.SpiAdmission : Prop :=
  ∀ (s : State) (i : Instr), s.cur = none → i.wellFormed = true → s.noOverlap i →
    (i = .spiInitm ∨ i = .spiInits → issueAnswers s i (if s.spi.inited = true then some .initTwice else none)) ∧
    ((∃ b, i = .spiSend b) ∨ (∃ p, i = .spiSends p) →
      issueAnswers s i (if s.spi.inited = false then some .notInitialised else none)) ∧
    (i = .spiRecv →
      issueAnswers s i (if s.spi.inited = false then some .notInitialised
        else if s.ctx = .fg ∧ s.spi.ie = true then some .pollingInInterruptMode else none)) ∧
    ((∃ p, i = .spiRecvs p) →
      issueAnswers s i (if s.spi.inited = false then some .notInitialised
        else if s.spi.ie = true then some .notAvailableInInterruptMode else none)) ∧
    ((∃ dir reg fn, i = .spiSetcb dir reg fn) →
      issueAnswers s i (if s.ctx = .isr then some .setcbInHandler else none))

/-- A command that a handler issues is refused `Overlap` exactly when it shares a transfer class with the suspended
foreground command; in the foreground no command is (R278). The command is one that its unit and mode admit. The I2C and
EEPROM commands are admitted by their unit and mode in both contexts, before init too, and are refused at issue for an
overlap only (R279). -/
def Obligations.OverlapIsRefused : Prop :=
  (∀ (s : State) (i : Instr), s.cur = none → i.wellFormed = true → modeRefusal s.ctx s i = none →
    (s.ctx = .fg → issueAnswers s i none) ∧
    (s.ctx = .isr → s.fg.cur = none → issueAnswers s i none) ∧
    ∀ k j, s.ctx = .isr → s.fg.cur = some k → decode k.word = .ok j →
      ((∃ c, (rowOf i).mnemonic ∈ transferClassMembers c ∧ (rowOf j).mnemonic ∈ transferClassMembers c) →
        issueAnswers s i (some .overlap)) ∧
      ((∀ c, ¬((rowOf i).mnemonic ∈ transferClassMembers c ∧ (rowOf j).mnemonic ∈ transferClassMembers c)) →
        issueAnswers s i none)) ∧
  ∀ (s : State) (i : Instr), s.cur = none → i.wellFormed = true → (rowOf i).mnemonic ∈ transferClassMembers .i2c →
    (s.ctx = .fg → issueAnswers s i none) ∧
    (s.ctx = .isr → s.fg.cur = none → issueAnswers s i none) ∧
    ∀ k j, s.ctx = .isr → s.fg.cur = some k → decode k.word = .ok j →
      issueAnswers s i (if (rowOf j).mnemonic ∈ transferClassMembers .i2c then some .overlap else none)

/-! ### Interrupts (60_exceptions.md) -/

/-- A dispatch of a pending source, before which `IRQ_ORDER` takes no other pending one, appends the source and its slot's
value to `CB.LOG`; where the slot holds a reference that the host honours the context becomes ISR; nothing else changes
(R266, R269, R272, R273). Under an order in which no source comes before itself there is such a source whenever one is
pending (R269; the form of the order is log entry 33). -/
def Obligations.DispatchReadsTheSlot : Prop :=
  ∀ (s : State) (pending : IrqSource → Prop),
    (pending .uartTx ↔ s.uart.txie = true ∧ s.uart.txe = true) →
    (pending .uartRx ↔ s.uart.rxie = true ∧ s.uart.rxc = true) →
    (pending .spiTc ↔ s.spi.ie = true ∧ s.spi.tc = true) →
    (∀ (rest : List Turn) (src : IrqSource) (honoured : Bool), s.turns = .irq src honoured :: rest → s.ctx = .fg →
      pending src → (∀ o, pending o → (o, src) ∉ s.params.irqFirst) →
      ∀ v : Option FnRef, v = (match src with
        | .uartTx => s.uart.cbTx
        | .uartRx => s.uart.cbRx
        | .spiTc => s.spi.cb) →
        (v = none → step s = .next { s with turns := rest, cbLog := s.cbLog ++ [(src, none)] }) ∧
        (v ≠ none → honoured = true →
          step s = .next { s with turns := rest, cbLog := s.cbLog ++ [(src, v)], ctx := .isr }) ∧
        (v ≠ none → honoured = false → step s = .refused .callbackLifetime)) ∧
    (s.params.orderWf = true → (∃ o, pending o) →
      ∃ src, pending src ∧ ∀ o, pending o → (o, src) ∉ s.params.irqFirst)

/-- While a handler runs, while the source is not pending, or while another pending source is to be taken before it, IRQ
does not dispatch it: its turn passes and changes nothing (R266, R269, R270; that a disabled agent's turn passes is log
entry 11). -/
def Obligations.DispatchIsMasked : Prop :=
  ∀ (s : State) (pending : IrqSource → Prop) (rest : List Turn) (src : IrqSource) (honoured : Bool),
    (pending .uartTx ↔ s.uart.txie = true ∧ s.uart.txe = true) →
    (pending .uartRx ↔ s.uart.rxie = true ∧ s.uart.rxc = true) →
    (pending .spiTc ↔ s.spi.ie = true ∧ s.spi.tc = true) →
    s.turns = .irq src honoured :: rest →
    (s.ctx = .isr ∨ ¬pending src ∨ ∃ o, pending o ∧ (o, src) ∈ s.params.irqFirst) →
      step s = .next { s with turns := rest }

/-- `IRET` in a handler returns to the foreground and frees the handler's context; nothing else changes. In the
foreground it is refused `IretOutsideHandler`, at its micro-step and at its issue (R275). -/
def Obligations.IretReturns : Prop :=
  ∀ (s : State) (k : InFlight),
    (s.at .iret 0 k → s.ctx = .isr →
      exec .iret s = .next { s with ctx := .fg, isr := { s.isr with cur := none } }) ∧
    (s.at .iret 0 k → s.ctx = .fg → exec .iret s = .refused .iretOutsideHandler) ∧
    (s.cur = none → issueAnswers s .iret (if s.ctx = .fg then some .iretOutsideHandler else none))

/-- While a handler runs, no step but the power-on reset touches the foreground's bank: its command in flight is
suspended, its results keep their values (R24, R271, R272). -/
def Obligations.ForegroundIsSuspended : Prop :=
  ∀ s t : State, s.ctx = .isr → s.turns.head? ≠ some .powerOn → step s = .next t → t.fg = s.fg

/-! ### UART (41_uart.md) -/

/-- `UART_INIT` at u0: the configuration, the divisor registers, the enables and the interrupt enables; a reserved field
value, a divisor out of range and a second init are refused (R132, R133). -/
def Obligations.UartInitConfigures : Prop :=
  ∀ (s : State) (k : InFlight) (baud : BitVec 32) (safe : Byte) (par wlen : BitVec 2) (txm rxm rate : Bool) (q : Nat),
    s.at (.uartInit baud safe par wlen txm rxm rate) 0 k → s.noOverlap (.uartInit baud safe par wlen txm rxm rate) →
    (s.uart.inited = false → (par = 3 ∨ baud = 0) →
      exec (.uartInit baud safe par wlen txm rxm rate) s = .refused .illegalCommand) ∧
    (par ≠ 3 → baud ≠ 0 → q = (s.params.fClk + 4 * baud.toNat) / (8 * baud.toNat) →
      (s.uart.inited = false → 1 ≤ q → q ≤ 0x10000 →
        ∃ t, exec (.uartInit baud safe par wlen txm rxm rate) s = .next t ∧
          t.uart = { s.uart with
            rate := rate, par := par, wlen := wlen, baud := baud, txm := txm, rxm := rxm, safe := safe,
            divh := BitVec.ofNat 8 ((q - 1) / 256), divl := BitVec.ofNat 8 ((q - 1) % 256),
            rxen := true, txen := true, txie := txm, rxie := rxm, inited := true } ∧
          Completes s t ∧ OutsideUart s t) ∧
      (s.uart.inited = false → (q = 0 ∨ 0x10000 < q) →
        exec (.uartInit baud safe par wlen txm rxm rate) s = .refused .divisorRange) ∧
      (s.uart.inited = true → exec (.uartInit baud safe par wlen txm rxm rate) s = .refused .initTwice))

/-- The divisor is the exact quotient `F_CLK / (8 * baud)` rounded to the nearest integer, a half up, less one, where that
is 0 to 0xFFFF; otherwise there is none (R11(a), R133). -/
def Obligations.BaudDivisorIsNearest : Prop :=
  ∀ fClk baud : Nat, 0 < baud →
    (∀ d : BitVec 16, baudDivisor fClk baud = some d ↔
      (2 * d.toNat + 1) * (8 * baud) ≤ 2 * fClk ∧ 2 * fClk < (2 * d.toNat + 3) * (8 * baud)) ∧
    (baudDivisor fClk baud = none ↔ 2 * fClk < 8 * baud ∨ (2 * 0x10000 + 1) * (8 * baud) ≤ 2 * fClk)

/-- `UART_SEND` at u0: with `txe` = 1 the low w bits of the byte go to `txd`, `txe` falls and the command completes; with
`txe` = 0 it is held (R135, R136). -/
def Obligations.UartSendLoads : Prop :=
  ∀ (s : State) (k : InFlight) (b : Byte), s.at (.uartSend b) 0 k → s.sendAdmitted → s.noOverlap (.uartSend b) →
    (s.uart.txe = true →
      ∃ t, exec (.uartSend b) s = .next t ∧
        t.uart = { s.uart with txd := b &&& BitVec.ofNat 8 (2 ^ (5 + s.uart.wlen.toNat) - 1), txe := false } ∧
        Completes s t ∧ OutsideUart s t) ∧
    (s.uart.txe = false → exec (.uartSend b) s = .next s)

/-- `UART_RECV` at u0: with `rxc` = 1 it returns the received byte, or the safe byte on a parity error with parity on or
on a framing error, writes `subst` accordingly and clears the three flags; with `rxc` = 0 it is held (R138, R139). -/
def Obligations.UartRecvReturns : Prop :=
  ∀ (s : State) (k : InFlight) (err : Bool), s.at .uartRecv 0 k → s.recvAdmitted → s.noOverlap .uartRecv →
    (err = true ↔ (s.uart.par ≠ 0 ∧ s.uart.pe = true) ∨ s.uart.fe = true) →
    (s.uart.rxc = true →
      ∃ t, exec .uartRecv s = .next t ∧
        t.uart = { s.uart with subst := err, rxc := false, pe := false, fe := false } ∧
        CompletesWith s t (if err then s.uart.safe else s.uart.rxd) ∧ OutsideUart s t) ∧
    (s.uart.rxc = false → exec .uartRecv s = .next s)

/-- The micro-steps of `UART_SENDS`: the pointer is set, a byte is read, and it is sent; the terminator is sent too and
ends the command (R73, R142). -/
def Obligations.UartSendsMicroSteps : Prop :=
  ∀ (s : State) (k : InFlight) (p : Addr),
    (s.at (.uartSends p) 0 k → s.sendAdmitted → s.noOverlap (.uartSends p) →
      ∃ t, exec (.uartSends p) s = .next t ∧ GoesOn s t { k with sp := p.toNat, uph := 1 } ∧ OutsideBank s t) ∧
    (s.at (.uartSends p) 1 k → k.sp ≤ 0xFFFF →
      ∃ t, exec (.uartSends p) s = .next t ∧ GoesOn s t { k with tmp := s.readMem k.sp, uph := 2 } ∧ OutsideBank s t) ∧
    (s.at (.uartSends p) 1 k → 0xFFFF < k.sp → exec (.uartSends p) s = .refused .addressRange) ∧
    (s.at (.uartSends p) 2 k → s.uart.txe = true →
      ∃ t, exec (.uartSends p) s = .next t ∧
        t.uart = { s.uart with txd := k.tmp &&& BitVec.ofNat 8 (2 ^ (5 + s.uart.wlen.toNat) - 1), txe := false } ∧
        (if k.tmp = 0 then Completes s t else GoesOn s t { k with sp := k.sp + 1, uph := 1 }) ∧ OutsideUart s t) ∧
    (s.at (.uartSends p) 2 k → s.uart.txe = false → exec (.uartSends p) s = .next s)

/-- The micro-steps of `UART_RECVS`: the length prefix, the payload bytes, the terminator stored after them; each received
byte goes through the substitution (R73, R139, R145). A store of a handler stays out of the buffer of a suspended
foreground string command (R74, log entry 9). -/
def Obligations.UartRecvsMicroSteps : Prop :=
  ∀ (s : State) (k : InFlight) (p : Addr) (err : Bool) (v : Byte),
    (err = true ↔ (s.uart.par ≠ 0 ∧ s.uart.pe = true) ∨ s.uart.fe = true) →
    v = (if err then s.uart.safe else s.uart.rxd) →
    Memory.wf Config.memBlank Config.memSize s.mem = true →
    (s.at (.uartRecvs p) 0 k → s.recvAdmitted → s.noOverlap (.uartRecvs p) → s.uart.rxc = true →
      ∃ t, exec (.uartRecvs p) s = .next t ∧
        t.uart = { s.uart with subst := err, rxc := false, pe := false, fe := false } ∧
        GoesOn s t { k with si := v, sn := v, sp := p.toNat, uph := 1 } ∧ OutsideUart s t) ∧
    (s.at (.uartRecvs p) 1 k → k.sn = 0 →
      ∃ t, exec (.uartRecvs p) s = .next t ∧ GoesOn s t { k with uph := 2 } ∧ OutsideBank s t) ∧
    (s.at (.uartRecvs p) 1 k → k.sn ≠ 0 → s.uart.rxc = true → k.sp ≤ 0xFFFF → s.storeFree k.sp →
      ∃ t, exec (.uartRecvs p) s = .next t ∧
        t.uart = { s.uart with subst := err, rxc := false, pe := false, fe := false } ∧
        t.readMem k.sp = v ∧ SameMemoryBut k.sp s t ∧
        GoesOn s t { k with sp := k.sp + 1, sn := k.sn - 1 } ∧ OutsideUartAndMemory s t) ∧
    (s.at (.uartRecvs p) 1 k → k.sn ≠ 0 → s.uart.rxc = true → 0xFFFF < k.sp →
      exec (.uartRecvs p) s = .refused .addressRange) ∧
    (s.at (.uartRecvs p) 2 k → k.sp ≤ 0xFFFF → s.storeFree k.sp →
      ∃ t, exec (.uartRecvs p) s = .next t ∧ t.uart = s.uart ∧ t.readMem k.sp = 0 ∧ SameMemoryBut k.sp s t ∧
        Completes s t ∧ OutsideUartAndMemory s t) ∧
    (s.at (.uartRecvs p) 2 k → 0xFFFF < k.sp → exec (.uartRecvs p) s = .refused .addressRange) ∧
    ((s.at (.uartRecvs p) 0 k ∧ s.recvAdmitted ∧ s.noOverlap (.uartRecvs p)) ∨ (s.at (.uartRecvs p) 1 k ∧ k.sn ≠ 0) →
      s.uart.rxc = false → exec (.uartRecvs p) s = .next s)

/-- The callback commands write the one slot they name and nothing else, with a reference or with none; in a handler they
are refused `SetcbInHandler` (R148, R184). -/
def Obligations.SetcbWritesTheSlot : Prop :=
  ∀ (s : State) (k : InFlight) (dir reg : Bool) (fn : FnRef) (v : Option FnRef),
    v = (if reg then some fn else none) →
    (s.at (.uartSetcb dir reg fn) 0 k → s.ctx = .fg →
      ∃ t, exec (.uartSetcb dir reg fn) s = .next t ∧
        t.uart = (if dir then { s.uart with cbRx := v } else { s.uart with cbTx := v }) ∧
        Completes s t ∧ OutsideUart s t) ∧
    (s.at (.spiSetcb false reg fn) 0 k → s.ctx = .fg →
      ∃ t, exec (.spiSetcb false reg fn) s = .next t ∧ t.spi = { s.spi with cb := v } ∧
        Completes s t ∧ OutsideSpi s t) ∧
    (s.at (.uartSetcb dir reg fn) 0 k → s.ctx = .isr → exec (.uartSetcb dir reg fn) s = .refused .setcbInHandler) ∧
    (s.at (.spiSetcb false reg fn) 0 k → s.ctx = .isr → exec (.spiSetcb false reg fn) s = .refused .setcbInHandler)

/-- The framer agents. UTX turns `txd` into a frame and raises `txe`; URX ignores a frame while disabled, drops it on a
full register, and otherwise loads the byte and the two error flags (R150, R151, R152). -/
def Obligations.FramersTakeTheirSteps : Prop :=
  ∀ (s : State) (rest : List Turn) (w : Nat), w = 5 + s.uart.wlen.toNat →
    (∀ d : Byte, s.turns = .utx :: rest → s.uart.txen = true → s.uart.txe = false →
      d = s.uart.txd &&& BitVec.ofNat 8 (2 ^ w - 1) →
        step s = .next { s with turns := rest, uart := { s.uart with
          txline := s.uart.txline ++ [⟨w, s.uart.par, d, parbit s.uart.par d w⟩], txe := true } }) ∧
    (∀ (d : Byte) (p stop : Bool) (p' : Option Bool), s.turns = .urx (.frame d p stop) :: rest →
      d &&& BitVec.ofNat 8 (2 ^ w - 1) = d → p' = (if s.uart.par = 0 then none else some p) →
      (s.uart.rxen = false → step s = .next { s with turns := rest, uart := { s.uart with
          rxlog := s.uart.rxlog ++ [⟨d, p', stop, .ignored⟩] } }) ∧
      (s.uart.rxen = true → s.uart.rxc = true → step s = .next { s with turns := rest, uart := { s.uart with
          rxlog := s.uart.rxlog ++ [⟨d, p', stop, .dropped⟩] } }) ∧
      (s.uart.rxen = true → s.uart.rxc = false → step s = .next { s with turns := rest, uart := { s.uart with
          rxd := d
          pe := s.uart.par != 0 && parbit s.uart.par d w != some p
          fe := !stop
          rxc := true
          rxlog := s.uart.rxlog ++ [⟨d, p', stop, .accepted⟩] } }))

/-- A frame is the start bit 0, the data bits least significant first, the parity bit if there is one and the stop bit 1:
w + 2 bits without parity and w + 3 with. It parses back to the byte, the parity bit and the stop bit it was made of, after
any rest of the line. The data and parity bits of an even frame together hold an even number of ones, those of an odd frame
an odd number (R86, R153, R154). -/
def Obligations.FramesParseBack : Prop :=
  ∀ (w n : Nat) (par : BitVec 2) (d : Byte), 5 ≤ w → w ≤ 8 → par ≠ 3 → d &&& BitVec.ofNat 8 (2 ^ w - 1) = d →
    parseFrame w par (List.replicate n true ++ frameBits w par d) =
        some (d, (parbit par d w).getD false, true) ∧
      (frameBits w par d).length = (if par = 0 then w + 2 else w + 3) ∧
      (frameBits w par d).head? = some false ∧ (frameBits w par d).getLast? = some true ∧
      (∀ m, m < w → (frameBits w par d)[m + 1]? = some (d.getLsbD m)) ∧
      (par = 2 → (lsbFirst d w ++ (parbit par d w).toList).count true % 2 = 0) ∧
      (par = 1 → (lsbFirst d w ++ (parbit par d w).toList).count true % 2 = 1)

/-- Under a loopback LINE a `UART_SEND b` and the `UART_RECV` after it return `b AND wmask(w)` with `subst` = 0, which is b
itself exactly when w = 8 or b < 2^w (R156). The schedule is fixed: the commands, the framers and the issue of the second
command take their turns one after the other (log entry 1). -/
def Obligations.UartLoopbackReturnsTheByte : Prop :=
  ∀ (s : State) (k : InFlight) (b : Byte) (w : Nat),
    s.at (.uartSend b) 0 k → s.sendAdmitted → s.recvAdmitted → s.noOverlap (.uartSend b) → s.noOverlap .uartRecv →
    s.uart.txen = true → s.uart.rxen = true → s.uart.txe = true → s.uart.rxc = false →
    s.looped = s.uart.txline.length → w = 5 + s.uart.wlen.toNat →
      (∃ t, runs s [.cmd, .utx, .urx .loopback, .issue s.ctx (encode .uartRecv), .cmd] t ∧
        (t.bank s.ctx).ret = b &&& BitVec.ofNat 8 (2 ^ w - 1) ∧ t.uart.subst = false ∧ t.cur = none) ∧
      (b &&& BitVec.ofNat 8 (2 ^ w - 1) = b ↔ w = 8 ∨ b.toNat < 2 ^ w)

/-- `UART_SENDS` on one schedule, from its first micro-step to its completion, puts one frame on the line for every byte up
to the first zero byte and one for the zero byte, in ascending address order, and writes no memory (R75, R142, R150). The
schedule is fixed: after the first micro-step the read of a byte, its send and UTX take their turns one after the other
(log entry 1). -/
def Obligations.UartSendsSendsTheString : Prop :=
  ∀ (s : State) (k : InFlight) (p : Addr) (bs : List Byte) (w : Nat),
    s.at (.uartSends p) 0 k → s.sendAdmitted → s.noOverlap (.uartSends p) →
    s.uart.txen = true → s.uart.txe = true → w = 5 + s.uart.wlen.toNat →
    (∀ b ∈ bs, b ≠ 0) → p.toNat + bs.length ≤ 0xFFFF →
    (∀ n (h : n < bs.length), s.readMem (p.toNat + n) = bs[n]) → s.readMem (p.toNat + bs.length) = 0 →
      ∃ t, runs s (.cmd :: (List.replicate (bs.length + 1) [Turn.cmd, .cmd, .utx]).flatten) t ∧
        t.uart.txline = s.uart.txline ++ (bs ++ [0]).map (fun b =>
          ⟨w, s.uart.par, b &&& BitVec.ofNat 8 (2 ^ w - 1),
            parbit s.uart.par (b &&& BitVec.ofNat 8 (2 ^ w - 1)) w⟩) ∧
        t.uart.txe = true ∧ t.cur = none ∧ SameMemory s t

/-- `UART_RECVS` on one schedule, in either context, from its first micro-step to its completion: with a clean prefix frame
of value n and n clean frames after it, the n bytes stand at ascending addresses from `buf`, a zero byte after them, and
every other byte of memory is as before (R72, R75, R145). The schedule is fixed: each frame is taken by URX and then read by
the command, and two micro-steps end it (log entry 1). A handler's buffer lies outside that of a suspended foreground string
command (R74, log entry 9). -/
def Obligations.UartRecvsStoresTheString : Prop :=
  ∀ (s : State) (k : InFlight) (p : Addr) (bs : List Byte) (n : Byte) (w : Nat) (frame : Byte → Turn),
    s.at (.uartRecvs p) 0 k → s.recvAdmitted → s.noOverlap (.uartRecvs p) →
    (∀ a, p.toNat ≤ a → a ≤ p.toNat + bs.length → s.storeFree a) →
    Memory.wf Config.memBlank Config.memSize s.mem = true →
    s.uart.rxen = true → s.uart.rxc = false → w = 5 + s.uart.wlen.toNat →
    n.toNat = bs.length → p.toNat + bs.length ≤ 0xFFFF → (∀ b ∈ n :: bs, b &&& BitVec.ofNat 8 (2 ^ w - 1) = b) →
    (∀ b, frame b = .urx (.frame b ((parbit s.uart.par b w).getD false) true)) →
      ∃ t, runs s ((n :: bs).flatMap (fun b => [frame b, .cmd]) ++ [.cmd, .cmd]) t ∧
        (∀ m (h : m < bs.length), t.readMem (p.toNat + m) = bs[m]) ∧ t.readMem (p.toNat + bs.length) = 0 ∧
        (∀ a, a < p.toNat ∨ p.toNat + bs.length < a → t.readMem a = s.readMem a) ∧ t.cur = none ∧ t.uart.rxc = false

/-! ### SPI (42_spi.md) -/

/-- The SPI init commands set the line directions of the role, copy the build-time parameters and enable the unit; a
second init is refused (R172, R173). -/
def Obligations.SpiInitSetsTheRole : Prop :=
  ∀ (s : State) (k : InFlight),
    (s.at .spiInitm 0 k → s.noOverlap .spiInitm → s.spi.inited = false →
      ∃ t, exec .spiInitm s = .next t ∧
        t.spi = { s.spi with
          dirCs := .output, dirCk := .output, dirMo := .output, dirSo := .input, mstr := true,
          ie := s.params.spiIntEn, dord := s.params.spiDord, cpol := s.params.spiCpol,
          clkdiv := s.params.spiClkdiv, x2 := s.params.spi2x, en := true, inited := true } ∧
        Completes s t ∧ OutsideSpi s t) ∧
    (s.at .spiInits 0 k → s.noOverlap .spiInits → s.spi.inited = false →
      ∃ t, exec .spiInits s = .next t ∧
        t.spi = { s.spi with
          dirCs := .input, dirCk := .input, dirMo := .input, dirSo := .output, mstr := false,
          ie := s.params.spiIntEn, dord := s.params.spiDord, cpol := s.params.spiCpol,
          clkdiv := s.params.spiClkdiv, x2 := s.params.spi2x, en := true, inited := true } ∧
        Completes s t ∧ OutsideSpi s t) ∧
    (s.at .spiInitm 0 k → s.noOverlap .spiInitm → s.spi.inited = true → exec .spiInitm s = .refused .initTwice) ∧
    (s.at .spiInits 0 k → s.noOverlap .spiInits → s.spi.inited = true → exec .spiInits s = .refused .initTwice)

/-- `SPI_SEND`: u0 writes the data register, clears `tc` and in a master sets `busy`; u1 waits for `tc` and leaves it set
(R175, R176). -/
def Obligations.SpiSendExchanges : Prop :=
  ∀ (s : State) (k : InFlight) (b : Byte),
    (s.at (.spiSend b) 0 k → s.noOverlap (.spiSend b) → s.spi.inited = true →
      ∃ t, exec (.spiSend b) s = .next t ∧
        t.spi = (if s.spi.mstr then { s.spi with dr := b, tc := false, busy := true }
          else { s.spi with dr := b, tc := false }) ∧
        GoesOn s t { k with uph := 1 } ∧ OutsideSpi s t) ∧
    (s.at (.spiSend b) 1 k → s.spi.tc = true →
      ∃ t, exec (.spiSend b) s = .next t ∧ Completes s t ∧ OutsideBank s t) ∧
    (s.at (.spiSend b) 1 k → s.spi.tc = false → exec (.spiSend b) s = .next s)

/-- `SPI_RECV`: with `tc` = 1 it returns the data register, which keeps its value, and clears `tc`; with `tc` = 0 it is
held (R177, R178). -/
def Obligations.SpiRecvReturns : Prop :=
  ∀ (s : State) (k : InFlight), s.at .spiRecv 0 k → s.noOverlap .spiRecv → s.spi.inited = true →
    (s.ctx = .fg → s.spi.ie = false) →
    (s.spi.tc = true →
      ∃ t, exec .spiRecv s = .next t ∧ t.spi = { s.spi with tc := false } ∧ CompletesWith s t s.spi.dr ∧
        OutsideSpi s t) ∧
    (s.spi.tc = false → exec .spiRecv s = .next s)

/-- The micro-steps of `SPI_SENDS` (R73, R176, R180). -/
def Obligations.SpiSendsMicroSteps : Prop :=
  ∀ (s : State) (k : InFlight) (p : Addr),
    (s.at (.spiSends p) 0 k → s.noOverlap (.spiSends p) → s.spi.inited = true →
      ∃ t, exec (.spiSends p) s = .next t ∧ GoesOn s t { k with sp := p.toNat, uph := 1 } ∧ OutsideBank s t) ∧
    (s.at (.spiSends p) 1 k → k.sp ≤ 0xFFFF →
      ∃ t, exec (.spiSends p) s = .next t ∧ GoesOn s t { k with tmp := s.readMem k.sp, uph := 2 } ∧ OutsideBank s t) ∧
    (s.at (.spiSends p) 1 k → 0xFFFF < k.sp → exec (.spiSends p) s = .refused .addressRange) ∧
    (s.at (.spiSends p) 2 k →
      ∃ t, exec (.spiSends p) s = .next t ∧
        t.spi = (if s.spi.mstr then { s.spi with dr := k.tmp, tc := false, busy := true }
          else { s.spi with dr := k.tmp, tc := false }) ∧
        GoesOn s t { k with uph := 3 } ∧ OutsideSpi s t) ∧
    (s.at (.spiSends p) 3 k → s.spi.tc = true →
      ∃ t, exec (.spiSends p) s = .next t ∧
        (if k.tmp = 0 then Completes s t else GoesOn s t { k with sp := k.sp + 1, uph := 1 }) ∧ OutsideBank s t) ∧
    (s.at (.spiSends p) 3 k → s.spi.tc = false → exec (.spiSends p) s = .next s)

/-- The micro-steps of `SPI_RECVS` (R73, R178, R182), with the address stored to computed as the command computes it. A
store of a handler stays out of the buffer of a suspended foreground string command (R74, log entry 9). -/
def Obligations.SpiRecvsMicroSteps : Prop :=
  ∀ (s : State) (k : InFlight) (p : Addr), Memory.wf Config.memBlank Config.memSize s.mem = true →
    (s.at (.spiRecvs p) 0 k → s.noOverlap (.spiRecvs p) → s.spi.inited = true → s.spi.ie = false → s.spi.tc = true →
      ∃ t, exec (.spiRecvs p) s = .next t ∧ t.spi = { s.spi with tc := false } ∧
        GoesOn s t { k with si := s.spi.dr, sn := s.spi.dr, sp := p.toNat, uph := 1 } ∧ OutsideSpi s t) ∧
    (s.at (.spiRecvs p) 1 k → k.sn = 0 →
      ∃ t, exec (.spiRecvs p) s = .next t ∧ GoesOn s t { k with uph := 2 } ∧ OutsideBank s t) ∧
    (s.at (.spiRecvs p) 1 k → k.sn ≠ 0 → s.spi.tc = true → k.sp ≤ 0xFFFF → s.storeFree k.sp →
      ∃ t, exec (.spiRecvs p) s = .next t ∧ t.spi = { s.spi with tc := false } ∧
        t.readMem k.sp = s.spi.dr ∧ SameMemoryBut k.sp s t ∧
        GoesOn s t { k with sp := k.sp + 1, sn := k.sn - 1 } ∧ OutsideSpiAndMemory s t) ∧
    (s.at (.spiRecvs p) 1 k → k.sn ≠ 0 → s.spi.tc = true → 0xFFFF < k.sp →
      exec (.spiRecvs p) s = .refused .addressRange) ∧
    (s.at (.spiRecvs p) 2 k → k.sp ≤ 0xFFFF → s.storeFree k.sp →
      ∃ t, exec (.spiRecvs p) s = .next t ∧ t.spi = s.spi ∧ t.readMem k.sp = 0 ∧ SameMemoryBut k.sp s t ∧
        Completes s t ∧ OutsideSpiAndMemory s t) ∧
    (s.at (.spiRecvs p) 2 k → 0xFFFF < k.sp → exec (.spiRecvs p) s = .refused .addressRange) ∧
    (s.at (.spiRecvs p) 0 k → s.noOverlap (.spiRecvs p) → s.spi.inited = true → s.spi.ie = true →
      exec (.spiRecvs p) s = .refused .notAvailableInInterruptMode) ∧
    ((s.at (.spiRecvs p) 0 k ∧ s.noOverlap (.spiRecvs p) ∧ s.spi.inited = true ∧ s.spi.ie = false) ∨
        (s.at (.spiRecvs p) 1 k ∧ k.sn ≠ 0) →
      s.spi.tc = false → exec (.spiRecvs p) s = .next s)

/-- The shift engine: a master's exchange ends with the peer's byte in the data register, `busy` = 0 and `tc` = 1; a
slave's happens whatever `tc` is, and sends what the register holds (R186, R187). -/
def Obligations.ShiftEngineExchanges : Prop :=
  ∀ (s : State) (rest : List Turn) (b : Byte), s.spi.en = true →
    (s.turns = .spxMaster (.byte b) :: rest → s.spi.mstr = true → s.spi.busy = true →
      step s = .next { s with turns := rest, spi := { s.spi with
        wire := s.spi.wire ++ [⟨.master, s.spi.dr, b⟩], dr := b, busy := false, tc := true } }) ∧
    (s.turns = .spxSlave b :: rest → s.spi.mstr = false →
      step s = .next { s with turns := rest, spi := { s.spi with
        wire := s.spi.wire ++ [⟨.slave, s.spi.dr, b⟩], dr := b, tc := true } })

/-- Under a loopback PEER, in master role with interrupt mode off, `SPI_SEND b` and the `SPI_RECV` after it return b, for
every byte b (R190). The schedule is fixed: the commands, SPX and the issue of the second command take their turns one after
the other (log entry 1). -/
def Obligations.SpiLoopbackReturnsTheByte : Prop :=
  ∀ (s : State) (k : InFlight) (b : Byte),
    s.at (.spiSend b) 0 k → s.noOverlap (.spiSend b) → s.noOverlap .spiRecv →
    s.spi.inited = true → s.spi.en = true → s.spi.mstr = true → s.spi.ie = false →
      ∃ t, runs s [.cmd, .spxMaster .loopback, .cmd, .issue s.ctx (encode .spiRecv), .cmd] t ∧
        (t.bank s.ctx).ret = b ∧ t.spi.tc = false ∧ t.spi.busy = false ∧
        t.spi.wire = s.spi.wire ++ [⟨.master, b, b⟩] ∧ t.cur = none

/-- A master receives only by sending: with `tc` = 0 and `busy` = 0 a receive command in flight in a master is held after
every run of any length and schedule without a power-on reset (R191). `Inv` and `Admitted` are kept by every step, as
other statements say. -/
def Obligations.MasterReceiveHangs : Prop :=
  ∀ (n : Nat) (s t : State) (c : Ctx) (k : InFlight) (p : Addr), Inv s → Admitted s →
    s.spi.mstr = true → s.spi.tc = false → s.spi.busy = false → (s.bank c).cur = some k →
    ((decode k.word = .ok .spiRecv ∧ k.uph = 0) ∨
      (decode k.word = .ok (.spiRecvs p) ∧ (k.uph = 0 ∨ (k.uph = 1 ∧ k.sn ≠ 0)))) →
    Turn.powerOn ∉ s.turns → Sys2Proof.core.run n s = .next t → (t.bank c).cur = some k

/-! ### I2C (43_i2c.md) -/

/-- `I2C_INIT`, and `EE_INIT` as `I2C_INIT` at 100 kHz with the unit's own address: the configuration of the speed tier,
phase IDLE, bus not owned, nothing pending; the status code is some five bits over the prescaler. The reserved tier is
refused (R202, R203, R242). With the bus owned the reference device releases itself, and nothing else of it changes (R254;
that the re-init always reaches it is log entry 17, that it ends no write time is log entry 16). -/
def Obligations.I2cInitConfigures : Prop :=
  ∀ (s : State) (k : InFlight) (i : Instr) (tier : BitVec 2) (addr7 : BitVec 7) (brr : Byte) (ps : BitVec 2),
    s.at i 0 k →
    (s.noOverlap i → (i = .i2cInit tier addr7 ∨ (i = .eeInit ∧ tier = 1 ∧ addr7 = s.params.eeLocalAddr)) →
      ((tier = 0 ∧ brr = 98 ∧ ps = 1) ∨ (tier = 1 ∧ brr = 8 ∧ ps = 1) ∨ (tier = 2 ∧ brr = 2 ∧ ps = 0)) →
        ∃ (t : State) (c : BitVec 5), exec i s = .next t ∧
          t.i2c = { s.i2c with
            en := true, brr := brr, ps := ps, addr := addr7, gce := true, ph := .idle, owned := false, op := none,
            done := false, sr := BitVec.ofNat 8 (8 * c.toNat + ps.toNat),
            bus := s.i2c.bus ++ (if s.i2c.owned then [.reinit] else []) } ∧
          t.dev = (if s.i2c.owned then { s.dev with dst := .idle, stored := false } else s.dev) ∧
          Completes s t ∧ OutsideI2c s t) ∧
    (i = .i2cInit 3 addr7 → exec i s = .refused .illegalCommand)

/-- The issue micro-step of the four primitives hands the operation to I2B and clears `done`; a write also loads the data
register. With the unit not enabled a start, and a write or a read in a phase that admits it, is refused `NotInitialised`; a
write or a read in another phase, as in the phase IDLE before init, is refused `OutOfSequence` (R205, R208, R210, R212, R213;
that the phase is checked before the enable is DEDUCED, log entry 10). -/
def Obligations.I2cPrimitivesIssue : Prop :=
  (∀ (s : State) (k : InFlight) (i : Instr) (x : I2cOp) (d : Byte),
    ((i = .i2cStart ∧ x = .start ∧ d = s.i2c.dr) ∨
      (i = .i2cWrite d ∧ x = .write ∧ (s.i2c.ph = .addr ∨ s.i2c.ph = .mt)) ∨
      (i = .i2cRdack ∧ x = .readAck ∧ d = s.i2c.dr ∧ s.i2c.ph = .mr) ∨
      (i = .i2cRdnack ∧ x = .readNack ∧ d = s.i2c.dr ∧ s.i2c.ph = .mr)) →
    s.at i 0 k → s.noOverlap i →
      (s.i2c.en = true →
        ∃ t, exec i s = .next t ∧ t.i2c = { s.i2c with dr := d, op := some x, done := false } ∧
          GoesOn s t { k with uph := 1 } ∧ OutsideI2cUnit s t) ∧
      (s.i2c.en = false → exec i s = .refused .notInitialised)) ∧
  ∀ (s : State) (k : InFlight) (i : Instr) (d : Byte),
    ((i = .i2cWrite d ∧ s.i2c.ph ≠ .addr ∧ s.i2c.ph ≠ .mt) ∨ ((i = .i2cRdack ∨ i = .i2cRdnack) ∧ s.i2c.ph ≠ .mr)) →
    s.at i 0 k → s.noOverlap i → s.i2c.en = false → exec i s = .refused .outOfSequence

/-- The wait micro-step of the four primitives: with `done` = 1 the command completes, a read with the byte in `RET`; with
`done` = 0 it is held (R205, R208, R210, R212, R213). -/
def Obligations.I2cPrimitivesWait : Prop :=
  ∀ (s : State) (k : InFlight) (i : Instr) (b : Byte),
    (i = .i2cStart ∨ i = .i2cWrite b ∨ i = .i2cRdack ∨ i = .i2cRdnack) → s.at i 1 k →
      (s.i2c.done = true →
        ∃ t, exec i s = .next t ∧
          (if i = .i2cRdack ∨ i = .i2cRdnack then CompletesWith s t s.i2c.dr else Completes s t) ∧ OutsideBank s t) ∧
      (s.i2c.done = false → exec i s = .next s)

/-- `I2C_STOP`: a stop on the bus if it is owned, phase IDLE, not owned, `done` unchanged, the status code some five bits
over the low bits that were there; refused before init (R216). The reference device keeps its memory and its pointer (R254;
log entries 16 and 17). -/
def Obligations.I2cStopReleases : Prop :=
  ∀ (s : State) (k : InFlight), s.at .i2cStop 0 k → s.noOverlap .i2cStop →
    (s.i2c.en = true →
      ∃ (t : State) (c : BitVec 5), exec .i2cStop s = .next t ∧
        t.i2c = { s.i2c with
          ph := .idle, owned := false, sr := BitVec.ofNat 8 (8 * c.toNat + s.i2c.sr.toNat % 8),
          bus := s.i2c.bus ++ (if s.i2c.owned then [.stop] else []) } ∧
        Completes s t ∧ DeviceAfterStop s t ∧ OutsideI2c s t) ∧
    (s.i2c.en = false → exec .i2cStop s = .refused .notInitialised)

/-- `I2C_STATUS` returns the status register with its low three bits masked off, in every phase and before init, and
changes nothing else (R81, R218). -/
def Obligations.I2cStatusMasks : Prop :=
  ∀ (s : State) (k : InFlight), s.at .i2cStatus 0 k → s.noOverlap .i2cStatus →
    ∃ (t : State) (v : Byte), exec .i2cStatus s = .next t ∧ v.toNat = s.i2c.sr.toNat / 8 * 8 ∧
      CompletesWith s t v ∧ OutsideBank s t

/-- The admission of the I2C commands by phase: a write outside ADDR and MT, and a read outside MR, is refused
`OutOfSequence`; every other entry of the table is admitted (R206). -/
def Obligations.OutOfSequenceIsRefused : Prop :=
  ∀ (s : State) (k : InFlight) (i : Instr) (b : Byte) (tier : BitVec 2) (addr7 : BitVec 7),
    s.at i 0 k → s.noOverlap i → s.i2c.en = true →
      (i = .i2cWrite b → s.i2c.ph ≠ .addr → s.i2c.ph ≠ .mt → exec i s = .refused .outOfSequence) ∧
      (i = .i2cRdack ∨ i = .i2cRdnack → s.i2c.ph ≠ .mr → exec i s = .refused .outOfSequence) ∧
      ((i = .i2cWrite b ∧ (s.i2c.ph = .addr ∨ s.i2c.ph = .mt)) ∨ ((i = .i2cRdack ∨ i = .i2cRdnack) ∧ s.i2c.ph = .mr) ∨
          i = .i2cStart ∨ i = .i2cStop ∨ i = .i2cStatus ∨ (i = .i2cInit tier addr7 ∧ tier ≠ 3) →
        ∃ t, exec i s = .next t)

/-- An operation that succeeds: the event, the code, the phase and the ownership of the transition table, `done` = 1, nothing
pending, the low bits of the status register kept (R220, R222 to R225, R229). -/
def Obligations.BusOperationSucceeds : Prop :=
  ∀ (s : State) (rest : List Turn) (v : Byte) (x : I2cOp) (code dr : Byte) (ph : I2cPhase) (ev : BusEvent) (own : Bool),
    s.turns = .i2b (.ok v) :: rest → s.i2c.op = some x →
    ((x = .start ∧ dr = s.i2c.dr ∧ ph = .addr ∧ own = true ∧
        ((s.i2c.owned = false ∧ code = s.params.stStart ∧ ev = .start) ∨
          (s.i2c.owned = true ∧ code = s.params.stRepStart ∧ ev = .repStart))) ∨
      (x = .write ∧ s.i2c.ph = .addr ∧ dr = s.i2c.dr ∧ own = s.i2c.owned ∧ ev = .addr s.i2c.dr .a ∧
        ((s.i2c.dr.getLsbD 0 = false ∧ code = s.params.stMtSlaAck ∧ ph = .mt) ∨
          (s.i2c.dr.getLsbD 0 = true ∧ code = s.params.stMrSlaAck ∧ ph = .mr))) ∨
      (x = .write ∧ s.i2c.ph = .mt ∧ dr = s.i2c.dr ∧ own = s.i2c.owned ∧ ev = .data s.i2c.dr .a ∧
        code = s.params.stMtDataAck ∧ ph = .mt) ∨
      (x = .readAck ∧ s.i2c.ph = .mr ∧ dr = v ∧ own = s.i2c.owned ∧ ev = .read v .a ∧
        code = s.params.stMrDataAck ∧ ph = .mr) ∨
      (x = .readNack ∧ s.i2c.ph = .mr ∧ dr = v ∧ own = s.i2c.owned ∧ ev = .read v .n ∧
        code = s.params.stMrDataNack ∧ ph = .mrEnd)) →
      step s = .next { s with turns := rest, i2c := { s.i2c with
        dr := dr, sr := BitVec.ofNat 8 (code.toNat / 8 * 8 + s.i2c.sr.toNat % 8), ph := ph, owned := own,
        bus := s.i2c.bus ++ [ev], op := none, done := true } }

/-- An operation that fails: phase FAIL, ownership kept, `done` = 1, nothing pending, the low bits of the status register
kept, and a code that is not the success code of the operation. A not-acknowledged byte and a fault leave their event, a
failed start leaves none; a failed read leaves the data register with some value (R222 to R226). -/
def Obligations.BusOperationFails : Prop :=
  ∀ (s : State) (rest : List Turn) (r : BusReply) (x : I2cOp) (okcode : Byte) (ev : List BusEvent),
    s.turns = .i2b r :: rest → s.i2c.op = some x → s.params.wf = true →
    ((x = .start ∧ r = .fault ∧ ev = [] ∧ okcode = (if s.i2c.owned then s.params.stRepStart else s.params.stStart)) ∨
      (x = .write ∧ s.i2c.ph = .addr ∧
        ((r = .nack ∧ ev = [.addr s.i2c.dr .n]) ∨ (r = .fault ∧ ev = [.fault])) ∧
        okcode = (if s.i2c.dr.getLsbD 0 then s.params.stMrSlaAck else s.params.stMtSlaAck)) ∨
      (x = .write ∧ s.i2c.ph = .mt ∧
        ((r = .nack ∧ ev = [.data s.i2c.dr .n]) ∨ (r = .fault ∧ ev = [.fault])) ∧ okcode = s.params.stMtDataAck) ∨
      (x = .readAck ∧ s.i2c.ph = .mr ∧ r = .fault ∧ ev = [.fault] ∧ okcode = s.params.stMrDataAck) ∨
      (x = .readNack ∧ s.i2c.ph = .mr ∧ r = .fault ∧ ev = [.fault] ∧ okcode = s.params.stMrDataNack)) →
      ∃ (t : State) (c : BitVec 5) (d : Byte), step s = .next t ∧
        BitVec.ofNat 8 (8 * c.toNat) ≠ okcode ∧ (x = .start ∨ x = .write → d = s.i2c.dr) ∧
        t = { s with turns := rest, draws := t.draws, i2c := { s.i2c with
          dr := d, sr := BitVec.ofNat 8 (8 * c.toNat + s.i2c.sr.toNat % 8), ph := .fail, bus := s.i2c.bus ++ ev,
          op := none, done := true } }

/-! ### EEPROM (44_eeprom.md) -/

/-- The micro-steps of `EE_WRITE`: each issue step with the byte it sends, each check with the code it expects, the error
exit without a stop, and the stop with `RES_OK` (R241, R244, R248, R249, R252), which leaves the reference device its
memory and its pointer (R254; log entries 16 and 17). -/
def Obligations.EeWriteMicroSteps : Prop :=
  ∀ (s : State) (k : InFlight) (ea : EepromAddr) (data : Byte) (n : Nat), s.at (.eeWrite ea data) n k →
    (n = 0 → s.noOverlap (.eeWrite ea data)) →
    (∀ x b, (n, x, b) ∈ [(0, I2cOp.start, s.i2c.dr), (2, .write, BitVec.ofNat 8 (0xA0 + 2 * (ea.toNat / 256))),
        (4, .write, BitVec.ofNat 8 (ea.toNat % 256)), (6, .write, data)] →
      s.i2c.en = true →
      (x = .start ∨ s.i2c.ph = .addr ∨ s.i2c.ph = .mt →
        ∃ t, exec (.eeWrite ea data) s = .next t ∧ t.i2c = { s.i2c with dr := b, op := some x, done := false } ∧
          GoesOn s t { k with uph := n + 1 } ∧ OutsideI2cUnit s t) ∧
      (x = .write → s.i2c.ph ≠ .addr → s.i2c.ph ≠ .mt → exec (.eeWrite ea data) s = .refused .outOfSequence)) ∧
    (n = 0 ∨ n = 2 ∨ n = 4 ∨ n = 6 → s.i2c.en = false → exec (.eeWrite ea data) s = .refused .notInitialised) ∧
    (∀ c, (n, c) ∈ [(1, s.params.stStart), (3, s.params.stMtSlaAck), (5, s.params.stMtDataAck),
        (7, s.params.stMtDataAck)] →
      (s.i2c.done = true →
        ∃ t, exec (.eeWrite ea data) s = .next t ∧
          (if s.i2c.sr &&& 0xF8 = c then GoesOn s t { k with uph := n + 1 } else CompletesResult s t 1) ∧
          OutsideBank s t) ∧
      (s.i2c.done = false → exec (.eeWrite ea data) s = .next s)) ∧
    (n = 8 →
      ∃ (t : State) (c : BitVec 5), exec (.eeWrite ea data) s = .next t ∧
        t.i2c = { s.i2c with
          ph := .idle, owned := false, sr := BitVec.ofNat 8 (8 * c.toNat + s.i2c.sr.toNat % 8),
          bus := s.i2c.bus ++ (if s.i2c.owned then [.stop] else []) } ∧
        CompletesResult s t 0 ∧ DeviceAfterStop s t ∧ OutsideI2c s t)

/-- The micro-steps of `EE_READ`: as those of `EE_WRITE`, with the repeated start, the select byte with read intent, and the
byte stored to `out` before the last check (R241, R246, R248, R249, R252). The stop leaves the reference device its memory
and its pointer (R254; log entries 16 and 17). -/
def Obligations.EeReadMicroSteps : Prop :=
  ∀ (s : State) (k : InFlight) (ea : EepromAddr) (out : Addr) (n : Nat), s.at (.eeRead ea out) n k →
    (n = 0 → s.noOverlap (.eeRead ea out)) → Memory.wf Config.memBlank Config.memSize s.mem = true →
    (∀ x b, (n, x, b) ∈ [(0, I2cOp.start, s.i2c.dr), (2, .write, BitVec.ofNat 8 (0xA0 + 2 * (ea.toNat / 256))),
        (4, .write, BitVec.ofNat 8 (ea.toNat % 256)), (6, .start, s.i2c.dr),
        (8, .write, BitVec.ofNat 8 (0xA1 + 2 * (ea.toNat / 256))), (10, .readNack, s.i2c.dr)] →
      s.i2c.en = true →
      (x = .start ∨ (x = .write ∧ (s.i2c.ph = .addr ∨ s.i2c.ph = .mt)) ∨ (x = .readNack ∧ s.i2c.ph = .mr) →
        ∃ t, exec (.eeRead ea out) s = .next t ∧ t.i2c = { s.i2c with dr := b, op := some x, done := false } ∧
          GoesOn s t { k with uph := n + 1 } ∧ OutsideI2cUnit s t) ∧
      ((x = .write ∧ s.i2c.ph ≠ .addr ∧ s.i2c.ph ≠ .mt) ∨ (x = .readNack ∧ s.i2c.ph ≠ .mr) →
        exec (.eeRead ea out) s = .refused .outOfSequence)) ∧
    (n = 0 ∨ n = 2 ∨ n = 4 ∨ n = 6 ∨ n = 8 ∨ n = 10 → s.i2c.en = false →
      exec (.eeRead ea out) s = .refused .notInitialised) ∧
    (∀ c, (n, c) ∈ [(1, s.params.stStart), (3, s.params.stMtSlaAck), (5, s.params.stMtDataAck),
        (7, s.params.stRepStart), (9, s.params.stMrSlaAck)] →
      s.i2c.done = true →
        ∃ t, exec (.eeRead ea out) s = .next t ∧
          (if s.i2c.sr &&& 0xF8 = c then GoesOn s t { k with uph := n + 1 } else CompletesResult s t 1) ∧
          OutsideBank s t) ∧
    (n = 11 → s.i2c.done = true → s.storeFree out.toNat →
      ∃ t, exec (.eeRead ea out) s = .next t ∧ t.readMem out.toNat = s.i2c.dr ∧ SameMemoryBut out.toNat s t ∧
        (if s.i2c.sr &&& 0xF8 = s.params.stMrDataNack then GoesOn s t { k with uph := 12 }
          else CompletesResult s t 1) ∧
        t.uart = s.uart ∧ t.spi = s.spi ∧ SameI2c s t ∧ SameAround s t) ∧
    (n = 1 ∨ n = 3 ∨ n = 5 ∨ n = 7 ∨ n = 9 ∨ n = 11 → s.i2c.done = false → exec (.eeRead ea out) s = .next s) ∧
    (n = 12 →
      ∃ (t : State) (c : BitVec 5), exec (.eeRead ea out) s = .next t ∧
        t.i2c = { s.i2c with
          ph := .idle, owned := false, sr := BitVec.ofNat 8 (8 * c.toNat + s.i2c.sr.toNat % 8),
          bus := s.i2c.bus ++ (if s.i2c.owned then [.stop] else []) } ∧
        CompletesResult s t 0 ∧ DeviceAfterStop s t ∧ OutsideI2c s t)

/-- With the reference device without write time on the bus, the unit enabled, in phase IDLE and the bus not owned:
`EE_WRITE ea, d` completes with `RES_OK`, the device holds d at ea and every other byte of it is as before, and so is host
memory; the `EE_READ ea, out` after it completes with `RES_OK`, d stands at `out`, every other byte of host memory is as
before, and so is every byte of the device (R254, R255). The schedule is fixed: the sequencer and the bus take their turns
alternately (log entry 1). -/
def Obligations.EepromReadsBackWhatWasWritten : Prop :=
  ∀ (s : State) (k : InFlight) (ea : EepromAddr) (d : Byte) (out : Addr),
    s.at (.eeWrite ea d) 0 k → s.noOverlap (.eeWrite ea d) → s.storeFree out.toNat → s.params.wf = true →
    Memory.wf Config.memBlank Config.memSize s.mem = true → Memory.wf Config.eeBlank Config.eeSize s.dev.eep = true →
    s.params.eeBusy = false → s.i2c.en = true → s.i2c.ph = .idle → s.i2c.owned = false →
      ∃ t u,
        runs s ((List.replicate 4 [Turn.cmd, .i2bDevice false, .cmd]).flatten ++ [.cmd]) t ∧
          (t.bank s.ctx).res = 0 ∧ t.cur = none ∧ SameMemory s t ∧
          (∀ b, Memory.read Config.eeBlank t.dev.eep b =
            if b = ea.toNat then d else Memory.read Config.eeBlank s.dev.eep b) ∧
        runs t (.issue s.ctx (encode (.eeRead ea out)) ::
            ((List.replicate 6 [Turn.cmd, .i2bDevice false, .cmd]).flatten ++ [.cmd])) u ∧
          (u.bank s.ctx).res = 0 ∧ u.cur = none ∧ u.readMem out.toNat = d ∧ SameMemoryBut out.toNat t u ∧
          ∀ b, Memory.read Config.eeBlank u.dev.eep b = Memory.read Config.eeBlank t.dev.eep b

/-- The starts of the EEPROM commands, on one schedule: the first start of either command, which expects the start code,
and the repeated start of `EE_READ`, which expects the repeated-start code, on an owned bus and on one that is not, with each
answer of the bus. A start that reports another code than the expected one ends the command with `RES_ERROR`, no byte sent
and no stop; one that reports the expected code goes on to the next micro-step. A start that succeeds reports the start code
on a bus not owned and the repeated-start code on an owned one, and leaves its event; a start that fails leaves nothing on
the bus and reports some code, but not that one (R222, R226, R248, R249, R256). The schedule is fixed: the issue of the
start, the answer of the bus and the check take their turns one after the other (log entry 1). -/
def Obligations.EepromStopsAtAStartMismatch : Prop :=
  ∀ (s : State) (k : InFlight) (i : Instr) (ea : EepromAddr) (d : Byte) (out : Addr) (n : Nat) (expected okcode : Byte)
    (r : BusReply),
    (((i = .eeWrite ea d ∨ i = .eeRead ea out) ∧ n = 0 ∧ expected = s.params.stStart) ∨
      (i = .eeRead ea out ∧ n = 6 ∧ expected = s.params.stRepStart)) →
    s.at i n k → (n = 0 → s.noOverlap i) → s.params.wf = true → s.i2c.en = true →
    okcode = (if s.i2c.owned then s.params.stRepStart else s.params.stStart) → (r = .fault ∨ ∃ v, r = .ok v) →
      ∃ t, runs s [.cmd, .i2b r, .cmd] t ∧ SameMemory s t ∧
        (t.i2c.sr &&& 0xF8 ≠ expected → (t.bank s.ctx).res = 1 ∧ t.cur = none) ∧
        (t.i2c.sr &&& 0xF8 = expected → t.cur = some { k with uph := n + 2 }) ∧
        (r = .fault → t.i2c.sr &&& 0xF8 ≠ okcode ∧ t.i2c.bus = s.i2c.bus ∧ t.i2c.ph = .fail ∧
          t.i2c.owned = s.i2c.owned) ∧
        (r ≠ .fault → t.i2c.sr &&& 0xF8 = okcode ∧
          t.i2c.bus = s.i2c.bus ++ [if s.i2c.owned then .repStart else .start] ∧ t.i2c.ph = .addr ∧ t.i2c.owned = true)

/-! ### Host memory (20_memory.md) -/

/-- A byte written reads back, every other byte reads as before, and the memory stays canonical, so that writing back what
is there changes nothing (R71, R72). -/
def Obligations.MemoryReadsBack : Prop :=
  ∀ (s : State) (a : Nat) (v : Byte), Memory.wf Config.memBlank Config.memSize s.mem = true → a ≤ 0xFFFF →
    (∀ b, (s.writeMem a v).readMem b = if b = a then v else s.readMem b) ∧
      Memory.wf Config.memBlank Config.memSize (s.writeMem a v).mem = true ∧
      s.writeMem a (s.readMem a) = s

/-- Host memory changes only by HOST's own writes and by the three commands that store, and each of these changes only the
byte it stores: at the string pointer, or at `out` (R70, R72). The memory of the reference device changes only by a data
byte that I2B hands to it in a data write, and the first of a transaction changes only the byte at its pointer, to the byte
sent (R254; when a data byte is a first one is log entry 28). -/
def Obligations.MemoryWriters : Prop :=
  ∀ (s t : State) (a : Nat), step s = .next t →
    (t.readMem a ≠ s.readMem a →
      (∃ b v rest, s.turns = .hostWrite b v :: rest ∧ a = b.toNat) ∨
        ∃ rest k, s.turns = .cmd :: rest ∧ s.cur = some k ∧ a ≤ 0xFFFF ∧
          ((∃ p, decode k.word = .ok (.uartRecvs p) ∧ (k.uph = 1 ∨ k.uph = 2) ∧ a = k.sp) ∨
            (∃ p, decode k.word = .ok (.spiRecvs p) ∧ (k.uph = 1 ∨ k.uph = 2) ∧ a = k.sp) ∨
            ∃ ea out, decode k.word = .ok (.eeRead ea out) ∧ k.uph = 11 ∧ a = out.toNat)) ∧
    (Memory.read Config.eeBlank t.dev.eep a ≠ Memory.read Config.eeBlank s.dev.eep a →
      (∃ declines rest, s.turns = .i2bDevice declines :: rest) ∧ s.i2c.op = some .write ∧ s.i2c.ph = .mt ∧
        s.dev.dst = .dataW ∧
        (s.dev.stored = false → a = s.dev.dptr.toNat ∧
          (Memory.wf Config.eeBlank Config.eeSize s.dev.eep = true →
            Memory.read Config.eeBlank t.dev.eep a = s.i2c.dr)))

/-- The frame of the storing commands, by the address each computes: when a micro-step answers next, every byte but the one
at the string pointer (at `out`) reads as before (R72, R145, R182, R246). -/
def Obligations.StoringCommandsFrame : Prop :=
  ∀ (s t : State) (k : InFlight) (p out : Addr) (ea : EepromAddr), s.cur = some k →
    (exec (.uartRecvs p) s = .next t → SameMemoryBut k.sp s t ∧ t.spi = s.spi ∧ SameI2c s t ∧ SameAround s t) ∧
    (exec (.spiRecvs p) s = .next t → SameMemoryBut k.sp s t ∧ t.uart = s.uart ∧ SameI2c s t ∧ SameAround s t) ∧
    (exec (.eeRead ea out) s = .next t →
      SameMemoryBut out.toNat s t ∧ t.uart = s.uart ∧ t.spi = s.spi ∧ SameAround s t)

/-- A byte of the buffer of a string command in flight is not to be written: HOST's write of it, and the store of a
handler's command into the buffer of the suspended foreground command, is refused `BufferRace` (R74; the extent of the
buffer, and that a handler's stores count, is DEDUCED, log entry 9). Every other write of HOST is made (R70). -/
def Obligations.BufferRaceIsRefused : Prop :=
  (∀ (s : State) (rest : List Turn) (a : Addr) (v : Byte), s.turns = .hostWrite a v :: rest →
    (∀ c k, (s.bank c).cur = some k → k.claims s a.toNat → step s = .refused .bufferRace) ∧
    ((∀ c k, (s.bank c).cur = some k → ¬k.claims s a.toNat) →
      step s = .next ({ s with turns := rest }.writeMem a.toNat v))) ∧
  ∀ (s : State) (suspended k : InFlight) (a : Nat),
    s.ctx = .isr → s.fg.cur = some suspended → suspended.claims s a → a ≤ 0xFFFF →
      (∀ p, (s.at (.uartRecvs p) 1 k ∧ k.sn ≠ 0 ∧ s.uart.rxc = true) ∨ s.at (.uartRecvs p) 2 k → a = k.sp →
        exec (.uartRecvs p) s = .refused .bufferRace) ∧
      (∀ p, (s.at (.spiRecvs p) 1 k ∧ k.sn ≠ 0 ∧ s.spi.tc = true) ∨ s.at (.spiRecvs p) 2 k → a = k.sp →
        exec (.spiRecvs p) s = .refused .bufferRace) ∧
      ∀ ea out, s.at (.eeRead ea out) 11 k → s.i2c.done = true → a = out.toNat →
        exec (.eeRead ea out) s = .refused .bufferRace

/-! ### The whole machine -/

/-- Every step keeps the invariant: the memories canonical, every command in flight legal and at one of its micro-steps, the
configuration, enable and flag fields of each unit in step with one another (R24, R27, R29, R31, R33 to R37, R42 to R45). -/
def Obligations.InvariantIsKept : Prop := ∀ s t : State, Inv s → step s = .next t → Inv t

/-- The invariant holds right after reset, for every choice of the parameters (R56, R291). That the parity mode is not 3 and
that the prescaler field is 0, as the low bits of the status register are, rests on the zeros the model gives `par` and `ps`,
which R56 leaves unspecified (log entry 4). -/
def Obligations.InvariantHoldsAtReset : Prop := ∀ p : Params, Inv (State.resetWith p)

/-- From a state of the invariant no step faults. Where the commands in flight are admitted, the command in flight in the
current context is admitted, and the one after any step is too: the check at u0 refuses nothing that the issue accepted (R10,
R131, R279; log entry 7). -/
def Obligations.CommandsInFlightStayAdmitted : Prop :=
  ∀ s : State, Inv s →
    (∀ f, step s ≠ .fault f) ∧
      (Admitted s →
        (∀ k i, s.cur = some k → decode k.word = .ok i → admission s i = none) ∧
          ∀ t, step s = .next t → ∀ k i, t.cur = some k → decode k.word = .ok i → admission t i = none)

/-- Every step keeps the admission of the commands in flight (R278, R279), and keeps every operation handed to I2B waited
for by a command, in a phase in which I2B can end it (R205, R220). -/
def Obligations.AdmissionAndOperationsAreKept : Prop :=
  ∀ s t : State, Inv s → Admitted s → step s = .next t → Admitted t ∧ (Awaited s → Awaited t)

/-- Once initialised, the UART and the SPI keep their configuration through every step but the power-on reset (R27, R28, R29,
R34, R35, R267). -/
def Obligations.ConfigurationIsImmutable : Prop :=
  ∀ s t : State, step s = .next t → s.turns.head? ≠ some .powerOn →
    (s.uart.inited = true →
      t.uart.inited = true ∧ t.uart.rate = s.uart.rate ∧ t.uart.txm = s.uart.txm ∧ t.uart.rxm = s.uart.rxm ∧
        t.uart.par = s.uart.par ∧ t.uart.baud = s.uart.baud ∧ t.uart.safe = s.uart.safe ∧ t.uart.wlen = s.uart.wlen ∧
        t.uart.divh = s.uart.divh ∧ t.uart.divl = s.uart.divl ∧ t.uart.txen = s.uart.txen ∧
        t.uart.rxen = s.uart.rxen ∧ t.uart.txie = s.uart.txie ∧ t.uart.rxie = s.uart.rxie) ∧
    (s.spi.inited = true →
      t.spi.inited = true ∧ t.spi.en = s.spi.en ∧ t.spi.mstr = s.spi.mstr ∧ t.spi.ie = s.spi.ie ∧
        t.spi.dord = s.spi.dord ∧ t.spi.cpol = s.spi.cpol ∧ t.spi.x2 = s.spi.x2 ∧ t.spi.clkdiv = s.spi.clkdiv ∧
        t.spi.dirCs = s.spi.dirCs ∧ t.spi.dirCk = s.spi.dirCk ∧ t.spi.dirMo = s.spi.dirMo ∧ t.spi.dirSo = s.spi.dirSo)

/-- The callback slots are written by the two callback commands and the power-on reset only, and by a command in the
foreground only (R48, R91). -/
def Obligations.SlotsHaveOneWriter : Prop :=
  ∀ s t : State, step s = .next t → s.turns.head? ≠ some .powerOn →
    (t.uart.cbTx ≠ s.uart.cbTx → ∃ k reg fn, s.ctx = .fg ∧ s.cur = some k ∧ k.uph = 0 ∧
        decode k.word = .ok (.uartSetcb false reg fn) ∧ t.uart.cbTx = if reg then some fn else none) ∧
    (t.uart.cbRx ≠ s.uart.cbRx → ∃ k reg fn, s.ctx = .fg ∧ s.cur = some k ∧ k.uph = 0 ∧
        decode k.word = .ok (.uartSetcb true reg fn) ∧ t.uart.cbRx = if reg then some fn else none) ∧
    (t.spi.cb ≠ s.spi.cb → ∃ k reg fn, s.ctx = .fg ∧ s.cur = some k ∧ k.uph = 0 ∧
        decode k.word = .ok (.spiSetcb false reg fn) ∧ t.spi.cb = if reg then some fn else none)

/-- `RET` is written only by the five commands that return a byte, and `RES` only by the two EEPROM commands, each in the
context that runs it (R20, R21, R22). -/
def Obligations.ResultRegisterWriters : Prop :=
  ∀ (i : Instr) (s t : State), exec i s = .next t → ∀ c,
    ((t.bank c).ret ≠ (s.bank c).ret → c = s.ctx ∧
      (rowOf i).mnemonic ∈ ["UART_RECV", "SPI_RECV", "I2C_RDACK", "I2C_RDNACK", "I2C_STATUS"]) ∧
    ((t.bank c).res ≠ (s.bank c).res → c = s.ctx ∧ (rowOf i).mnemonic ∈ ["EE_WRITE", "EE_READ"] ∧
      (t.bank c).cur = none)

/-- The event histories only grow, by every step but the power-on reset, by at most one entry each (R51). -/
def Obligations.HistoriesOnlyGrow : Prop :=
  ∀ s t : State, step s = .next t → s.turns.head? ≠ some .powerOn →
    (∃ l, t.uart.txline = s.uart.txline ++ l ∧ l.length ≤ 1) ∧
    (∃ l, t.uart.rxlog = s.uart.rxlog ++ l ∧ l.length ≤ 1) ∧
    (∃ l, t.spi.wire = s.spi.wire ++ l ∧ l.length ≤ 1) ∧
    (∃ l, t.i2c.bus = s.i2c.bus ++ l ∧ l.length ≤ 1) ∧
    ∃ l, t.cbLog = s.cbLog ++ l ∧ l.length ≤ 1

/-- The state on leaving reset, by the table of R56 where it gives a value; in it every turn of CMD, UTX, SPX, I2B and IRQ
changes nothing: the block does nothing until HOST issues a command (R291; that such a turn passes is log entry 11). The
power-on reset as an event gives the same values whatever was in flight, and keeps host memory and the device's memory and
address pointer; a device left in a transaction releases itself (R290, R292; log entries 1 and 24). -/
def Obligations.ResetState : Prop :=
  ∀ s t : State, (s = State.reset ∧ t = s ∨ ∃ rest, s.turns = .powerOn :: rest ∧ step s = .next t) →
    t.ctx = .fg ∧ t.fg.cur = none ∧ t.isr.cur = none ∧
    t.uart.inited = false ∧ t.uart.txen = false ∧ t.uart.rxen = false ∧ t.uart.txie = false ∧ t.uart.rxie = false ∧
    t.uart.txe = true ∧ t.uart.rxc = false ∧ t.uart.pe = false ∧ t.uart.fe = false ∧ t.uart.subst = false ∧
    t.uart.cbTx = none ∧ t.uart.cbRx = none ∧ t.spi.cb = none ∧
    t.spi.inited = false ∧ t.spi.en = false ∧ t.spi.mstr = false ∧ t.spi.ie = false ∧
    t.spi.dirCs = .input ∧ t.spi.dirCk = .input ∧ t.spi.dirMo = .input ∧ t.spi.dirSo = .input ∧
    t.spi.tc = false ∧ t.spi.busy = false ∧
    t.i2c.en = false ∧ t.i2c.sr.toNat % 8 = 0 ∧ t.i2c.done = false ∧ t.i2c.op = none ∧ t.i2c.ph = .idle ∧
    t.i2c.owned = false ∧
    t.uart.txline = [] ∧ t.uart.rxlog = [] ∧ t.spi.wire = [] ∧ t.i2c.bus = [] ∧ t.cbLog = [] ∧
    t.params = s.params ∧ SameMemory s t ∧ t.dev.eep = s.dev.eep ∧ t.dev.dptr = s.dev.dptr ∧
    (s.i2c.owned = true → t.dev.dst = .idle) ∧
    ∀ (turn : Turn) (rest : List Turn),
      (turn = .cmd ∨ turn = .utx ∨ (∃ p, turn = .spxMaster p) ∨ (∃ m, turn = .spxSlave m) ∨ (∃ r, turn = .i2b r) ∨
        (∃ declines, turn = .i2bDevice declines) ∨ ∃ src honoured, turn = .irq src honoured) →
      step { t with turns := turn :: rest } = .next { t with turns := rest }

/-- Sends cannot hang: in an infinite run without a power-on reset in which UTX is weakly fair, a byte in `txd` of an
initialised UART, with the transmitter enabled and `txe` = 0, is sent: UTX takes a step after which `txe` is 1 and the line
holds one more frame, of that byte in the configured word length and parity mode (R135, R150, R313). -/
def Obligations.TransmitterEmptiesItself : Prop :=
  ∀ (states : Nat → State) (taken : Nat → Turn), InfiniteRun states taken → (∀ n, taken n ≠ .powerOn) →
    WeaklyFair utxEnabled (fun _ t _ => t = .utx) states taken →
      ∀ (n w : Nat) (d : Byte), (states n).uart.inited = true → (states n).uart.txen = true →
        (states n).uart.txe = false → w = 5 + (states n).uart.wlen.toNat →
        d = (states n).uart.txd &&& BitVec.ofNat 8 (2 ^ w - 1) →
          ∃ m, n ≤ m ∧ taken m = .utx ∧ (states (m + 1)).uart.txe = true ∧
            (states (m + 1)).uart.txline =
              (states n).uart.txline ++ [⟨w, (states n).uart.par, d, parbit (states n).uart.par d w⟩]
end

