-- ==== Sys2Proof/Laws/Memory.lean ====
section
/-!
SUPPORT. The laws of a memory in canonical form (20_memory.md rules R71, R72): what a read after a write gives, and that
every memory operation keeps the form.
-/

namespace Sys2Proof.Machine

/-- A byte below every listed address reads as blank. -/
theorem Memory.read_below {blank : Byte} {size lo : Nat} {m : Memory} (h : Memory.wfFrom blank size lo m = true)
    {a : Nat} (ha : a < lo) : Memory.read blank m a = blank := by
  induction m generalizing lo with
  | nil => rfl
  | cons c m ih =>
    obtain ⟨b, x⟩ := c
    simp only [Memory.wfFrom, Bool.and_eq_true, decide_eq_true_eq] at h
    have hne : a ≠ b := by omega
    simp only [Memory.read, hne, if_false]
    exact ih h.2 (by omega)

/-- A write leaves every other address alone (R72). -/
theorem Memory.read_write_other (blank : Byte) (m : Memory) {a b : Nat} (v : Byte) (h : b ≠ a) :
    Memory.read blank (Memory.write blank m a v) b = Memory.read blank m b := by
  induction m with
  | nil =>
    simp only [Memory.write]
    split <;> simp [Memory.read, h]
  | cons c m ih =>
    obtain ⟨c, x⟩ := c
    simp only [Memory.write]
    split
    · split <;> simp [Memory.read, h]
    · split
      · next hac =>
        subst hac
        split <;> simp [Memory.read, h]
      · simp only [Memory.read, ih]

/-- A read after a write to the same address gives the value written (R71, R72). -/
theorem Memory.read_write_same {blank : Byte} {size lo : Nat} {m : Memory}
    (hm : Memory.wfFrom blank size lo m = true) (a : Nat) (v : Byte) :
    Memory.read blank (Memory.write blank m a v) a = v := by
  induction m generalizing lo with
  | nil =>
    simp only [Memory.write]
    split
    · next h => simp [Memory.read, h]
    · simp [Memory.read]
  | cons c m ih =>
    obtain ⟨b, x⟩ := c
    simp only [Memory.wfFrom, Bool.and_eq_true, decide_eq_true_eq] at hm
    simp only [Memory.write]
    split
    · next hab =>
      split
      · next hv =>
        have hne : a ≠ b := by omega
        simp only [Memory.read, hne, if_false]
        rw [Memory.read_below hm.2 (by omega), hv]
      · simp [Memory.read]
    · split
      · next hab =>
        subst hab
        split
        · next hv => rw [Memory.read_below hm.2 (by omega), hv]
        · simp [Memory.read]
      · next hab =>
        simp only [Memory.read, hab, if_false]
        exact ih hm.2

/-- A lower bound may be lowered. -/
theorem Memory.wfFrom_mono {blank : Byte} {size lo lo' : Nat} {m : Memory} (hl : lo' ≤ lo)
    (h : Memory.wfFrom blank size lo m = true) : Memory.wfFrom blank size lo' m = true := by
  cases m with
  | nil => rfl
  | cons c m =>
    obtain ⟨b, x⟩ := c
    simp only [Memory.wfFrom, Bool.and_eq_true, decide_eq_true_eq] at h ⊢
    exact ⟨⟨⟨by omega, h.1.1.2⟩, h.1.2⟩, h.2⟩

/-- A write keeps the canonical form from a lower bound that the address meets. -/
theorem Memory.wfFrom_write {blank : Byte} {size lo : Nat} {m : Memory} (h : Memory.wfFrom blank size lo m = true)
    {a : Nat} (hlo : lo ≤ a) (ha : a < size) (v : Byte) :
    Memory.wfFrom blank size lo (Memory.write blank m a v) = true := by
  induction m generalizing lo with
  | nil =>
    simp only [Memory.write]
    split
    · rfl
    · next hv => simp [Memory.wfFrom, hlo, ha, hv]
  | cons c m ih =>
    obtain ⟨b, x⟩ := c
    have hc := h
    simp only [Memory.wfFrom, Bool.and_eq_true, decide_eq_true_eq] at hc
    simp only [Memory.write]
    split
    · next hab =>
      split
      · exact h
      · next hv =>
        simp only [Memory.wfFrom, Bool.and_eq_true, decide_eq_true_eq]
        exact ⟨⟨⟨hlo, ha⟩, by simpa using hv⟩, ⟨⟨by omega, hc.1.1.2⟩, hc.1.2⟩, hc.2⟩
    · split
      · next hab =>
        subst hab
        split
        · exact Memory.wfFrom_mono (by omega) hc.2
        · next hv =>
          simp only [Memory.wfFrom, Bool.and_eq_true, decide_eq_true_eq]
          exact ⟨⟨⟨hlo, ha⟩, by simpa using hv⟩, hc.2⟩
      · next hab =>
        simp only [Memory.wfFrom, Bool.and_eq_true, decide_eq_true_eq]
        exact ⟨hc.1, ih hc.2 (by omega)⟩

/-- Every write to an address of the memory keeps the canonical form. -/
theorem Memory.wf_write {blank : Byte} {size : Nat} {m : Memory} (h : Memory.wf blank size m = true) {a : Nat}
    (ha : a < size) (v : Byte) : Memory.wf blank size (Memory.write blank m a v) = true :=
  Memory.wfFrom_write h (Nat.zero_le a) ha v

/-- The empty memory is canonical. -/
theorem Memory.wf_nil (blank : Byte) (size : Nat) : Memory.wf blank size [] = true := rfl

/-- A list of writes to addresses of the memory keeps the canonical form. -/
theorem Memory.wf_foldl_write {blank : Byte} {size : Nat} (f : Nat → Byte) (as : List Nat) {m : Memory}
    (h : Memory.wf blank size m = true) (has : ∀ a ∈ as, a < size) :
    Memory.wf blank size (as.foldl (fun m a => Memory.write blank m a (f a)) m) = true := by
  induction as generalizing m with
  | nil => exact h
  | cons a as ih =>
    exact ih (Memory.wf_write h (has a (List.mem_cons_self ..)) _) fun b hb => has b (List.mem_cons_of_mem _ hb)

/-- The free memory of a device after a second data byte is canonical. -/
theorem Device.unspecified_wf (k : Nat) : Memory.wf Config.eeBlank Config.eeSize (Device.unspecified k).eep = true := by
  unfold Device.unspecified
  generalize hn : Config.eeSize = n
  exact Memory.wf_foldl_write _ _ (Memory.wf_nil _ _) fun _ ha => List.mem_range.mp ha

/-- Reading a byte of host memory after a write (R71, R72). -/
theorem State.readMem_writeMem (s : State) (a b : Nat) (v : Byte)
    (h : Memory.wf Config.memBlank Config.memSize s.mem = true) :
    (s.writeMem a v).readMem b = if b = a then v else s.readMem b := by
  by_cases hb : b = a
  · subst hb
    simp only [if_true]
    exact Memory.read_write_same h b v
  · simp only [hb, if_false]
    exact Memory.read_write_other _ _ _ hb

/-- A write leaves every other address of host memory alone, in every state (R72). -/
theorem State.readMem_writeMem_other (s : State) {a b : Nat} (v : Byte) (h : b ≠ a) :
    (s.writeMem a v).readMem b = s.readMem b :=
  Memory.read_write_other _ _ _ h

end Sys2Proof.Machine
end

