-- ==== Sys2Proof/Laws/State.lean ====
section
/-!
SUPPORT. The small lemmas of State: what each named update does to each field, true by unfolding, so that no later proof
unfolds a record update.
-/

namespace Sys2Proof.Machine

/-! ### Banks -/

@[simp] theorem State.bank_fg (s : State) : s.bank .fg = s.fg := rfl
@[simp] theorem State.bank_isr (s : State) : s.bank .isr = s.isr := rfl
@[simp] theorem State.setBank_fg (s : State) (b : Bank) : s.setBank .fg b = { s with fg := b } := rfl
@[simp] theorem State.setBank_isr (s : State) (b : Bank) : s.setBank .isr b = { s with isr := b } := rfl
theorem State.bank_setBank_self (s : State) (c : Ctx) (b : Bank) : (s.setBank c b).bank c = b := by cases c <;> rfl
theorem State.bank_setBank_other (s : State) (c d : Ctx) (b : Bank) (h : d ≠ c) : (s.setBank c b).bank d = s.bank d := by
  cases c <;> cases d <;> first | rfl | exact absurd rfl h

@[simp] theorem State.setBank_params (s : State) (c : Ctx) (b : Bank) : (s.setBank c b).params = s.params := by cases c <;> rfl
@[simp] theorem State.setBank_ctx (s : State) (c : Ctx) (b : Bank) : (s.setBank c b).ctx = s.ctx := by cases c <;> rfl
@[simp] theorem State.setBank_uart (s : State) (c : Ctx) (b : Bank) : (s.setBank c b).uart = s.uart := by cases c <;> rfl
@[simp] theorem State.setBank_spi (s : State) (c : Ctx) (b : Bank) : (s.setBank c b).spi = s.spi := by cases c <;> rfl
@[simp] theorem State.setBank_i2c (s : State) (c : Ctx) (b : Bank) : (s.setBank c b).i2c = s.i2c := by cases c <;> rfl
@[simp] theorem State.setBank_cbLog (s : State) (c : Ctx) (b : Bank) : (s.setBank c b).cbLog = s.cbLog := by cases c <;> rfl
@[simp] theorem State.setBank_mem (s : State) (c : Ctx) (b : Bank) : (s.setBank c b).mem = s.mem := by cases c <;> rfl
@[simp] theorem State.setBank_dev (s : State) (c : Ctx) (b : Bank) : (s.setBank c b).dev = s.dev := by cases c <;> rfl
@[simp] theorem State.setBank_looped (s : State) (c : Ctx) (b : Bank) : (s.setBank c b).looped = s.looped := by cases c <;> rfl
@[simp] theorem State.setBank_draws (s : State) (c : Ctx) (b : Bank) : (s.setBank c b).draws = s.draws := by cases c <;> rfl
@[simp] theorem State.setBank_turns (s : State) (c : Ctx) (b : Bank) : (s.setBank c b).turns = s.turns := by cases c <;> rfl
@[simp] theorem State.setCur_params (s : State) (k : Option InFlight) : (s.setCur k).params = s.params := State.setBank_params s _ _
@[simp] theorem State.setCur_ctx (s : State) (k : Option InFlight) : (s.setCur k).ctx = s.ctx := State.setBank_ctx s _ _
@[simp] theorem State.setCur_uart (s : State) (k : Option InFlight) : (s.setCur k).uart = s.uart := State.setBank_uart s _ _
@[simp] theorem State.setCur_spi (s : State) (k : Option InFlight) : (s.setCur k).spi = s.spi := State.setBank_spi s _ _
@[simp] theorem State.setCur_i2c (s : State) (k : Option InFlight) : (s.setCur k).i2c = s.i2c := State.setBank_i2c s _ _
@[simp] theorem State.setCur_cbLog (s : State) (k : Option InFlight) : (s.setCur k).cbLog = s.cbLog := State.setBank_cbLog s _ _
@[simp] theorem State.setCur_mem (s : State) (k : Option InFlight) : (s.setCur k).mem = s.mem := State.setBank_mem s _ _
@[simp] theorem State.setCur_dev (s : State) (k : Option InFlight) : (s.setCur k).dev = s.dev := State.setBank_dev s _ _
@[simp] theorem State.setCur_looped (s : State) (k : Option InFlight) : (s.setCur k).looped = s.looped := State.setBank_looped s _ _
@[simp] theorem State.setCur_draws (s : State) (k : Option InFlight) : (s.setCur k).draws = s.draws := State.setBank_draws s _ _
@[simp] theorem State.setCur_turns (s : State) (k : Option InFlight) : (s.setCur k).turns = s.turns := State.setBank_turns s _ _
@[simp] theorem State.setRet_params (s : State) (v : Byte) : (s.setRet v).params = s.params := State.setBank_params s _ _
@[simp] theorem State.setRet_ctx (s : State) (v : Byte) : (s.setRet v).ctx = s.ctx := State.setBank_ctx s _ _
@[simp] theorem State.setRet_uart (s : State) (v : Byte) : (s.setRet v).uart = s.uart := State.setBank_uart s _ _
@[simp] theorem State.setRet_spi (s : State) (v : Byte) : (s.setRet v).spi = s.spi := State.setBank_spi s _ _
@[simp] theorem State.setRet_i2c (s : State) (v : Byte) : (s.setRet v).i2c = s.i2c := State.setBank_i2c s _ _
@[simp] theorem State.setRet_cbLog (s : State) (v : Byte) : (s.setRet v).cbLog = s.cbLog := State.setBank_cbLog s _ _
@[simp] theorem State.setRet_mem (s : State) (v : Byte) : (s.setRet v).mem = s.mem := State.setBank_mem s _ _
@[simp] theorem State.setRet_dev (s : State) (v : Byte) : (s.setRet v).dev = s.dev := State.setBank_dev s _ _
@[simp] theorem State.setRet_looped (s : State) (v : Byte) : (s.setRet v).looped = s.looped := State.setBank_looped s _ _
@[simp] theorem State.setRet_draws (s : State) (v : Byte) : (s.setRet v).draws = s.draws := State.setBank_draws s _ _
@[simp] theorem State.setRet_turns (s : State) (v : Byte) : (s.setRet v).turns = s.turns := State.setBank_turns s _ _
@[simp] theorem State.setRes_params (s : State) (v : BitVec 1) : (s.setRes v).params = s.params := State.setBank_params s _ _
@[simp] theorem State.setRes_ctx (s : State) (v : BitVec 1) : (s.setRes v).ctx = s.ctx := State.setBank_ctx s _ _
@[simp] theorem State.setRes_uart (s : State) (v : BitVec 1) : (s.setRes v).uart = s.uart := State.setBank_uart s _ _
@[simp] theorem State.setRes_spi (s : State) (v : BitVec 1) : (s.setRes v).spi = s.spi := State.setBank_spi s _ _
@[simp] theorem State.setRes_i2c (s : State) (v : BitVec 1) : (s.setRes v).i2c = s.i2c := State.setBank_i2c s _ _
@[simp] theorem State.setRes_cbLog (s : State) (v : BitVec 1) : (s.setRes v).cbLog = s.cbLog := State.setBank_cbLog s _ _
@[simp] theorem State.setRes_mem (s : State) (v : BitVec 1) : (s.setRes v).mem = s.mem := State.setBank_mem s _ _
@[simp] theorem State.setRes_dev (s : State) (v : BitVec 1) : (s.setRes v).dev = s.dev := State.setBank_dev s _ _
@[simp] theorem State.setRes_looped (s : State) (v : BitVec 1) : (s.setRes v).looped = s.looped := State.setBank_looped s _ _
@[simp] theorem State.setRes_draws (s : State) (v : BitVec 1) : (s.setRes v).draws = s.draws := State.setBank_draws s _ _
@[simp] theorem State.setRes_turns (s : State) (v : BitVec 1) : (s.setRes v).turns = s.turns := State.setBank_turns s _ _
@[simp] theorem State.complete_params (s : State) : (s.complete).params = s.params := State.setCur_params s _
@[simp] theorem State.complete_ctx (s : State) : (s.complete).ctx = s.ctx := State.setCur_ctx s _
@[simp] theorem State.complete_uart (s : State) : (s.complete).uart = s.uart := State.setCur_uart s _
@[simp] theorem State.complete_spi (s : State) : (s.complete).spi = s.spi := State.setCur_spi s _
@[simp] theorem State.complete_i2c (s : State) : (s.complete).i2c = s.i2c := State.setCur_i2c s _
@[simp] theorem State.complete_cbLog (s : State) : (s.complete).cbLog = s.cbLog := State.setCur_cbLog s _
@[simp] theorem State.complete_mem (s : State) : (s.complete).mem = s.mem := State.setCur_mem s _
@[simp] theorem State.complete_dev (s : State) : (s.complete).dev = s.dev := State.setCur_dev s _
@[simp] theorem State.complete_looped (s : State) : (s.complete).looped = s.looped := State.setCur_looped s _
@[simp] theorem State.complete_draws (s : State) : (s.complete).draws = s.draws := State.setCur_draws s _
@[simp] theorem State.complete_turns (s : State) : (s.complete).turns = s.turns := State.setCur_turns s _
@[simp] theorem State.goto_params (s : State) (k : InFlight) (n : Nat) : (s.goto k n).params = s.params := State.setCur_params s _
@[simp] theorem State.goto_ctx (s : State) (k : InFlight) (n : Nat) : (s.goto k n).ctx = s.ctx := State.setCur_ctx s _
@[simp] theorem State.goto_uart (s : State) (k : InFlight) (n : Nat) : (s.goto k n).uart = s.uart := State.setCur_uart s _
@[simp] theorem State.goto_spi (s : State) (k : InFlight) (n : Nat) : (s.goto k n).spi = s.spi := State.setCur_spi s _
@[simp] theorem State.goto_i2c (s : State) (k : InFlight) (n : Nat) : (s.goto k n).i2c = s.i2c := State.setCur_i2c s _
@[simp] theorem State.goto_cbLog (s : State) (k : InFlight) (n : Nat) : (s.goto k n).cbLog = s.cbLog := State.setCur_cbLog s _
@[simp] theorem State.goto_mem (s : State) (k : InFlight) (n : Nat) : (s.goto k n).mem = s.mem := State.setCur_mem s _
@[simp] theorem State.goto_dev (s : State) (k : InFlight) (n : Nat) : (s.goto k n).dev = s.dev := State.setCur_dev s _
@[simp] theorem State.goto_looped (s : State) (k : InFlight) (n : Nat) : (s.goto k n).looped = s.looped := State.setCur_looped s _
@[simp] theorem State.goto_draws (s : State) (k : InFlight) (n : Nat) : (s.goto k n).draws = s.draws := State.setCur_draws s _
@[simp] theorem State.goto_turns (s : State) (k : InFlight) (n : Nat) : (s.goto k n).turns = s.turns := State.setCur_turns s _

/-! ### The banks after an update of the current one -/

theorem State.setCur_bank (s : State) (k : Option InFlight) (c : Ctx) :
    (s.setCur k).bank c = if c = s.ctx then { s.bank c with cur := k } else s.bank c := by
  cases c <;> cases h : s.ctx <;> simp [State.setCur, h]
theorem State.setRet_bank (s : State) (v : Byte) (c : Ctx) :
    (s.setRet v).bank c = if c = s.ctx then { s.bank c with ret := v } else s.bank c := by
  cases c <;> cases h : s.ctx <;> simp [State.setRet, h]
theorem State.setRes_bank (s : State) (v : BitVec 1) (c : Ctx) :
    (s.setRes v).bank c = if c = s.ctx then { s.bank c with res := v } else s.bank c := by
  cases c <;> cases h : s.ctx <;> simp [State.setRes, h]
theorem State.setCur_fg' (s : State) (k : Option InFlight) :
    (s.setCur k).fg = if s.ctx = .fg then { s.fg with cur := k } else s.fg := by
  cases h : s.ctx <;> simp [State.setCur, h]
theorem State.setCur_isr' (s : State) (k : Option InFlight) :
    (s.setCur k).isr = if s.ctx = .isr then { s.isr with cur := k } else s.isr := by
  cases h : s.ctx <;> simp [State.setCur, h]
theorem State.setRet_fg' (s : State) (v : Byte) :
    (s.setRet v).fg = if s.ctx = .fg then { s.fg with ret := v } else s.fg := by
  cases h : s.ctx <;> simp [State.setRet, h]
theorem State.setRet_isr' (s : State) (v : Byte) :
    (s.setRet v).isr = if s.ctx = .isr then { s.isr with ret := v } else s.isr := by
  cases h : s.ctx <;> simp [State.setRet, h]
theorem State.setRes_fg' (s : State) (v : BitVec 1) :
    (s.setRes v).fg = if s.ctx = .fg then { s.fg with res := v } else s.fg := by
  cases h : s.ctx <;> simp [State.setRes, h]
theorem State.setRes_isr' (s : State) (v : BitVec 1) :
    (s.setRes v).isr = if s.ctx = .isr then { s.isr with res := v } else s.isr := by
  cases h : s.ctx <;> simp [State.setRes, h]

@[simp] theorem State.cur_setCur (s : State) (k : Option InFlight) : (s.setCur k).cur = k := by
  cases h : s.ctx <;> simp [State.cur, State.setCur, h]
@[simp] theorem State.cur_setRet (s : State) (v : Byte) : (s.setRet v).cur = s.cur := by
  cases h : s.ctx <;> simp [State.cur, State.setRet, h]
@[simp] theorem State.cur_setRes (s : State) (v : BitVec 1) : (s.setRes v).cur = s.cur := by
  cases h : s.ctx <;> simp [State.cur, State.setRes, h]
@[simp] theorem State.cur_complete (s : State) : s.complete.cur = none := State.cur_setCur s none
@[simp] theorem State.cur_goto (s : State) (k : InFlight) (n : Nat) : (s.goto k n).cur = some { k with uph := n } :=
  State.cur_setCur s _


/-! ### `State.writeMem` -/

@[simp] theorem State.writeMem_params (s : State) (a : Nat) (v : Byte) : (s.writeMem a v).params = s.params := rfl
@[simp] theorem State.writeMem_ctx (s : State) (a : Nat) (v : Byte) : (s.writeMem a v).ctx = s.ctx := rfl
@[simp] theorem State.writeMem_fg (s : State) (a : Nat) (v : Byte) : (s.writeMem a v).fg = s.fg := rfl
@[simp] theorem State.writeMem_isr (s : State) (a : Nat) (v : Byte) : (s.writeMem a v).isr = s.isr := rfl
@[simp] theorem State.writeMem_uart (s : State) (a : Nat) (v : Byte) : (s.writeMem a v).uart = s.uart := rfl
@[simp] theorem State.writeMem_spi (s : State) (a : Nat) (v : Byte) : (s.writeMem a v).spi = s.spi := rfl
@[simp] theorem State.writeMem_i2c (s : State) (a : Nat) (v : Byte) : (s.writeMem a v).i2c = s.i2c := rfl
@[simp] theorem State.writeMem_cbLog (s : State) (a : Nat) (v : Byte) : (s.writeMem a v).cbLog = s.cbLog := rfl
@[simp] theorem State.writeMem_dev (s : State) (a : Nat) (v : Byte) : (s.writeMem a v).dev = s.dev := rfl
@[simp] theorem State.writeMem_looped (s : State) (a : Nat) (v : Byte) : (s.writeMem a v).looped = s.looped := rfl
@[simp] theorem State.writeMem_draws (s : State) (a : Nat) (v : Byte) : (s.writeMem a v).draws = s.draws := rfl
@[simp] theorem State.writeMem_turns (s : State) (a : Nat) (v : Byte) : (s.writeMem a v).turns = s.turns := rfl

/-! ### `State.sendStep` -/

@[simp] theorem State.sendStep_params (s : State) (c : Byte) : (s.sendStep c).params = s.params := rfl
@[simp] theorem State.sendStep_ctx (s : State) (c : Byte) : (s.sendStep c).ctx = s.ctx := rfl
@[simp] theorem State.sendStep_fg (s : State) (c : Byte) : (s.sendStep c).fg = s.fg := rfl
@[simp] theorem State.sendStep_isr (s : State) (c : Byte) : (s.sendStep c).isr = s.isr := rfl
@[simp] theorem State.sendStep_spi (s : State) (c : Byte) : (s.sendStep c).spi = s.spi := rfl
@[simp] theorem State.sendStep_i2c (s : State) (c : Byte) : (s.sendStep c).i2c = s.i2c := rfl
@[simp] theorem State.sendStep_cbLog (s : State) (c : Byte) : (s.sendStep c).cbLog = s.cbLog := rfl
@[simp] theorem State.sendStep_mem (s : State) (c : Byte) : (s.sendStep c).mem = s.mem := rfl
@[simp] theorem State.sendStep_dev (s : State) (c : Byte) : (s.sendStep c).dev = s.dev := rfl
@[simp] theorem State.sendStep_looped (s : State) (c : Byte) : (s.sendStep c).looped = s.looped := rfl
@[simp] theorem State.sendStep_draws (s : State) (c : Byte) : (s.sendStep c).draws = s.draws := rfl
@[simp] theorem State.sendStep_turns (s : State) (c : Byte) : (s.sendStep c).turns = s.turns := rfl

/-! ### `State.recvStep` -/

@[simp] theorem State.recvStep_params (s : State) : (s.recvStep).params = s.params := rfl
@[simp] theorem State.recvStep_ctx (s : State) : (s.recvStep).ctx = s.ctx := rfl
@[simp] theorem State.recvStep_fg (s : State) : (s.recvStep).fg = s.fg := rfl
@[simp] theorem State.recvStep_isr (s : State) : (s.recvStep).isr = s.isr := rfl
@[simp] theorem State.recvStep_spi (s : State) : (s.recvStep).spi = s.spi := rfl
@[simp] theorem State.recvStep_i2c (s : State) : (s.recvStep).i2c = s.i2c := rfl
@[simp] theorem State.recvStep_cbLog (s : State) : (s.recvStep).cbLog = s.cbLog := rfl
@[simp] theorem State.recvStep_mem (s : State) : (s.recvStep).mem = s.mem := rfl
@[simp] theorem State.recvStep_dev (s : State) : (s.recvStep).dev = s.dev := rfl
@[simp] theorem State.recvStep_looped (s : State) : (s.recvStep).looped = s.looped := rfl
@[simp] theorem State.recvStep_draws (s : State) : (s.recvStep).draws = s.draws := rfl
@[simp] theorem State.recvStep_turns (s : State) : (s.recvStep).turns = s.turns := rfl

/-! ### `State.spiPut` -/

@[simp] theorem State.spiPut_params (s : State) (c : Byte) : (s.spiPut c).params = s.params := rfl
@[simp] theorem State.spiPut_ctx (s : State) (c : Byte) : (s.spiPut c).ctx = s.ctx := rfl
@[simp] theorem State.spiPut_fg (s : State) (c : Byte) : (s.spiPut c).fg = s.fg := rfl
@[simp] theorem State.spiPut_isr (s : State) (c : Byte) : (s.spiPut c).isr = s.isr := rfl
@[simp] theorem State.spiPut_uart (s : State) (c : Byte) : (s.spiPut c).uart = s.uart := rfl
@[simp] theorem State.spiPut_i2c (s : State) (c : Byte) : (s.spiPut c).i2c = s.i2c := rfl
@[simp] theorem State.spiPut_cbLog (s : State) (c : Byte) : (s.spiPut c).cbLog = s.cbLog := rfl
@[simp] theorem State.spiPut_mem (s : State) (c : Byte) : (s.spiPut c).mem = s.mem := rfl
@[simp] theorem State.spiPut_dev (s : State) (c : Byte) : (s.spiPut c).dev = s.dev := rfl
@[simp] theorem State.spiPut_looped (s : State) (c : Byte) : (s.spiPut c).looped = s.looped := rfl
@[simp] theorem State.spiPut_draws (s : State) (c : Byte) : (s.spiPut c).draws = s.draws := rfl
@[simp] theorem State.spiPut_turns (s : State) (c : Byte) : (s.spiPut c).turns = s.turns := rfl

/-! ### `State.spiGet` -/

@[simp] theorem State.spiGet_params (s : State) : (s.spiGet).params = s.params := rfl
@[simp] theorem State.spiGet_ctx (s : State) : (s.spiGet).ctx = s.ctx := rfl
@[simp] theorem State.spiGet_fg (s : State) : (s.spiGet).fg = s.fg := rfl
@[simp] theorem State.spiGet_isr (s : State) : (s.spiGet).isr = s.isr := rfl
@[simp] theorem State.spiGet_uart (s : State) : (s.spiGet).uart = s.uart := rfl
@[simp] theorem State.spiGet_i2c (s : State) : (s.spiGet).i2c = s.i2c := rfl
@[simp] theorem State.spiGet_cbLog (s : State) : (s.spiGet).cbLog = s.cbLog := rfl
@[simp] theorem State.spiGet_mem (s : State) : (s.spiGet).mem = s.mem := rfl
@[simp] theorem State.spiGet_dev (s : State) : (s.spiGet).dev = s.dev := rfl
@[simp] theorem State.spiGet_looped (s : State) : (s.spiGet).looped = s.looped := rfl
@[simp] theorem State.spiGet_draws (s : State) : (s.spiGet).draws = s.draws := rfl
@[simp] theorem State.spiGet_turns (s : State) : (s.spiGet).turns = s.turns := rfl

/-! ### `State.setI2cData` -/

@[simp] theorem State.setI2cData_params (s : State) (b : Byte) : (s.setI2cData b).params = s.params := rfl
@[simp] theorem State.setI2cData_ctx (s : State) (b : Byte) : (s.setI2cData b).ctx = s.ctx := rfl
@[simp] theorem State.setI2cData_fg (s : State) (b : Byte) : (s.setI2cData b).fg = s.fg := rfl
@[simp] theorem State.setI2cData_isr (s : State) (b : Byte) : (s.setI2cData b).isr = s.isr := rfl
@[simp] theorem State.setI2cData_uart (s : State) (b : Byte) : (s.setI2cData b).uart = s.uart := rfl
@[simp] theorem State.setI2cData_spi (s : State) (b : Byte) : (s.setI2cData b).spi = s.spi := rfl
@[simp] theorem State.setI2cData_cbLog (s : State) (b : Byte) : (s.setI2cData b).cbLog = s.cbLog := rfl
@[simp] theorem State.setI2cData_mem (s : State) (b : Byte) : (s.setI2cData b).mem = s.mem := rfl
@[simp] theorem State.setI2cData_dev (s : State) (b : Byte) : (s.setI2cData b).dev = s.dev := rfl
@[simp] theorem State.setI2cData_looped (s : State) (b : Byte) : (s.setI2cData b).looped = s.looped := rfl
@[simp] theorem State.setI2cData_draws (s : State) (b : Byte) : (s.setI2cData b).draws = s.draws := rfl
@[simp] theorem State.setI2cData_turns (s : State) (b : Byte) : (s.setI2cData b).turns = s.turns := rfl

/-! ### `State.stopStep` -/

@[simp] theorem State.stopStep_params (s : State) : (s.stopStep).params = s.params := rfl
@[simp] theorem State.stopStep_ctx (s : State) : (s.stopStep).ctx = s.ctx := rfl
@[simp] theorem State.stopStep_fg (s : State) : (s.stopStep).fg = s.fg := rfl
@[simp] theorem State.stopStep_isr (s : State) : (s.stopStep).isr = s.isr := rfl
@[simp] theorem State.stopStep_uart (s : State) : (s.stopStep).uart = s.uart := rfl
@[simp] theorem State.stopStep_spi (s : State) : (s.stopStep).spi = s.spi := rfl
@[simp] theorem State.stopStep_cbLog (s : State) : (s.stopStep).cbLog = s.cbLog := rfl
@[simp] theorem State.stopStep_mem (s : State) : (s.stopStep).mem = s.mem := rfl
@[simp] theorem State.stopStep_looped (s : State) : (s.stopStep).looped = s.looped := rfl
@[simp] theorem State.stopStep_turns (s : State) : (s.stopStep).turns = s.turns := rfl

/-! ### `State.i2cSetup` -/

@[simp] theorem State.i2cSetup_params (s : State) (tier : BitVec 2) (addr7 : BitVec 7) : (s.i2cSetup tier addr7).params = s.params := rfl
@[simp] theorem State.i2cSetup_ctx (s : State) (tier : BitVec 2) (addr7 : BitVec 7) : (s.i2cSetup tier addr7).ctx = s.ctx := rfl
@[simp] theorem State.i2cSetup_fg (s : State) (tier : BitVec 2) (addr7 : BitVec 7) : (s.i2cSetup tier addr7).fg = s.fg := rfl
@[simp] theorem State.i2cSetup_isr (s : State) (tier : BitVec 2) (addr7 : BitVec 7) : (s.i2cSetup tier addr7).isr = s.isr := rfl
@[simp] theorem State.i2cSetup_uart (s : State) (tier : BitVec 2) (addr7 : BitVec 7) : (s.i2cSetup tier addr7).uart = s.uart := rfl
@[simp] theorem State.i2cSetup_spi (s : State) (tier : BitVec 2) (addr7 : BitVec 7) : (s.i2cSetup tier addr7).spi = s.spi := rfl
@[simp] theorem State.i2cSetup_cbLog (s : State) (tier : BitVec 2) (addr7 : BitVec 7) : (s.i2cSetup tier addr7).cbLog = s.cbLog := rfl
@[simp] theorem State.i2cSetup_mem (s : State) (tier : BitVec 2) (addr7 : BitVec 7) : (s.i2cSetup tier addr7).mem = s.mem := rfl
@[simp] theorem State.i2cSetup_looped (s : State) (tier : BitVec 2) (addr7 : BitVec 7) : (s.i2cSetup tier addr7).looped = s.looped := rfl
@[simp] theorem State.i2cSetup_turns (s : State) (tier : BitVec 2) (addr7 : BitVec 7) : (s.i2cSetup tier addr7).turns = s.turns := rfl

/-! ### Updates that change neither the context nor a bank keep the command in flight -/

@[simp] theorem State.cur_writeMem (s : State) (a : Nat) (v : Byte) : (s.writeMem a v).cur = s.cur := rfl
@[simp] theorem State.cur_sendStep (s : State) (c : Byte) : (s.sendStep c).cur = s.cur := rfl
@[simp] theorem State.cur_recvStep (s : State) : (s.recvStep).cur = s.cur := rfl
@[simp] theorem State.cur_spiPut (s : State) (c : Byte) : (s.spiPut c).cur = s.cur := rfl
@[simp] theorem State.cur_spiGet (s : State) : (s.spiGet).cur = s.cur := rfl
@[simp] theorem State.cur_setI2cData (s : State) (b : Byte) : (s.setI2cData b).cur = s.cur := rfl
@[simp] theorem State.cur_stopStep (s : State) : (s.stopStep).cur = s.cur := rfl
@[simp] theorem State.cur_i2cSetup (s : State) (tier : BitVec 2) (addr7 : BitVec 7) : (s.i2cSetup tier addr7).cur = s.cur := rfl

/-! ### `State.returnFromHandler` -/

@[simp] theorem State.returnFromHandler_params (s : State) : s.returnFromHandler.params = s.params := State.complete_params s
@[simp] theorem State.returnFromHandler_uart (s : State) : s.returnFromHandler.uart = s.uart := State.complete_uart s
@[simp] theorem State.returnFromHandler_spi (s : State) : s.returnFromHandler.spi = s.spi := State.complete_spi s
@[simp] theorem State.returnFromHandler_i2c (s : State) : s.returnFromHandler.i2c = s.i2c := State.complete_i2c s
@[simp] theorem State.returnFromHandler_cbLog (s : State) : s.returnFromHandler.cbLog = s.cbLog := State.complete_cbLog s
@[simp] theorem State.returnFromHandler_mem (s : State) : s.returnFromHandler.mem = s.mem := State.complete_mem s
@[simp] theorem State.returnFromHandler_dev (s : State) : s.returnFromHandler.dev = s.dev := State.complete_dev s
@[simp] theorem State.returnFromHandler_looped (s : State) : s.returnFromHandler.looped = s.looped := State.complete_looped s
@[simp] theorem State.returnFromHandler_draws (s : State) : s.returnFromHandler.draws = s.draws := State.complete_draws s
@[simp] theorem State.returnFromHandler_turns (s : State) : s.returnFromHandler.turns = s.turns := State.complete_turns s
@[simp] theorem State.returnFromHandler_ctx (s : State) : s.returnFromHandler.ctx = .fg := rfl
@[simp] theorem State.returnFromHandler_fg (s : State) : s.returnFromHandler.fg = s.complete.fg := rfl
@[simp] theorem State.returnFromHandler_isr (s : State) : s.returnFromHandler.isr = s.complete.isr := rfl

/-! ### The fields that the updates of a unit write -/

@[simp] theorem State.writeMem_mem (s : State) (a : Nat) (v : Byte) :
    (s.writeMem a v).mem = Memory.write Config.memBlank s.mem a v := rfl
@[simp] theorem State.sendStep_uart (s : State) (c : Byte) :
    (s.sendStep c).uart = { s.uart with txd := c &&& s.uart.mask, txe := false } := rfl
@[simp] theorem State.recvStep_uart (s : State) :
    s.recvStep.uart = { s.uart with subst := s.uart.lineError, rxc := false, pe := false, fe := false } := rfl
@[simp] theorem State.spiPut_spi (s : State) (c : Byte) :
    (s.spiPut c).spi = { s.spi with dr := c, tc := false, busy := s.spi.mstr || s.spi.busy } := rfl
@[simp] theorem State.spiGet_spi (s : State) : s.spiGet.spi = { s.spi with tc := false } := rfl
@[simp] theorem State.setI2cData_i2c (s : State) (b : Byte) : (s.setI2cData b).i2c = { s.i2c with dr := b } := rfl
@[simp] theorem State.stopStep_draws (s : State) : s.stopStep.draws = s.draws + 1 := rfl
@[simp] theorem State.i2cSetup_draws (s : State) (tier : BitVec 2) (addr7 : BitVec 7) :
    (s.i2cSetup tier addr7).draws = s.draws + 1 := rfl

end Sys2Proof.Machine
end

