-- ==== Sys2Proof/Laws/Ops.lean ====
section
/-!
SUPPORT. What each shared operation can answer, said once: a proof cites these instead of unfolding the operation. The
lemmas are equivalences, so that `simp` with them turns "this micro-step answers next t" into its cases.
-/

namespace Sys2Proof.Machine

/-! ### The shapes of a micro-step -/

/-- `require` answers next exactly when its condition holds and its body does. -/
theorem require_next {c : Prop} [Decidable c] {r : Refusal} {body : Result} {t : State} :
    require c r body = .next t ↔ c ∧ body = .next t := by
  unfold require; split <;> simp_all

/-- `require` faults exactly when its condition holds and its body does. -/
theorem require_fault {c : Prop} [Decidable c] {r : Refusal} {body : Result} {f : Fault} :
    require c r body = .fault f ↔ c ∧ body = .fault f := by
  unfold require; split <;> simp_all

/-- `require` refuses with its own reason, or as its body does. -/
theorem require_refused {c : Prop} [Decidable c] {r q : Refusal} {body : Result} :
    require c r body = .refused q ↔ (c ∧ body = .refused q) ∨ (¬c ∧ q = r) := by
  unfold require; split <;> simp_all [eq_comm]

/-- A held micro-step leaves the state as it is; an open one does what its body does (R9). -/
theorem holdUntil_next {c : Bool} {s t : State} {body : Result} :
    holdUntil c s body = .next t ↔ (c = true ∧ body = .next t) ∨ (c = false ∧ t = s) := by
  unfold holdUntil; cases c <;> simp [@eq_comm _ s]

theorem holdUntil_fault {c : Bool} {s : State} {body : Result} {f : Fault} :
    holdUntil c s body = .fault f ↔ c = true ∧ body = .fault f := by
  unfold holdUntil; cases c <;> simp

/-- A micro-step answers next exactly when a command is in flight, is admitted if it is at u0, and its body does. -/
theorem microStep_next {i : Instr} {s t : State} {body : InFlight → Result} :
    microStep i s body = .next t ↔
      ∃ k, s.cur = some k ∧ (k.uph = 0 → admission s i = none) ∧ body k = .next t := by
  unfold microStep
  cases hc : s.cur with
  | none => simp
  | some k =>
    by_cases h0 : k.uph = 0
    · cases ha : admission s i <;> simp [h0]
    · simp [h0]

/-- A micro-step faults exactly when no command is in flight, or when its body does. -/
theorem microStep_fault {i : Instr} {s : State} {body : InFlight → Result} {f : Fault} :
    microStep i s body = .fault f ↔
      (s.cur = none ∧ f = .notInFlight) ∨
        ∃ k, s.cur = some k ∧ (k.uph = 0 → admission s i = none) ∧ body k = .fault f := by
  unfold microStep
  cases hc : s.cur with
  | none => simp [eq_comm]
  | some k =>
    by_cases h0 : k.uph = 0
    · cases ha : admission s i <;> simp [h0]
    · simp [h0]

/-- With the command in flight at a later micro-phase, or admitted at u0, a micro-step is its body. -/
theorem microStep_run {i : Instr} {s : State} {body : InFlight → Result} {k : InFlight} (hk : s.cur = some k)
    (ha : k.uph = 0 → admission s i = none) : microStep i s body = body k := by
  unfold microStep
  by_cases h0 : k.uph = 0
  · simp [hk, h0, ha h0]
  · simp [hk, h0]

/-- A command is admitted exactly when it is legal, overlaps no suspended foreground command, and its unit and mode admit
it. -/
theorem admission_none {i : Instr} {s : State} :
    admission s i = none ↔
      i.wellFormed = true ∧ (s.ctx = .isr → s.foregroundUses i = false) ∧ modeRefusal s.ctx s i = none := by
  unfold admission admissionIn
  cases hw : i.wellFormed <;> cases hc : s.ctx <;> cases hf : s.foregroundUses i <;> simp

/-! ### Loads and stores of string commands (R73, R74) -/

theorem loadByte_next {a : Nat} {s t : State} {body : Byte → Result} :
    loadByte a s body = .next t ↔ a ≤ 0xFFFF ∧ body (s.readMem a) = .next t := require_next

theorem loadByte_fault {a : Nat} {s : State} {body : Byte → Result} {f : Fault} :
    loadByte a s body = .fault f ↔ a ≤ 0xFFFF ∧ body (s.readMem a) = .fault f := require_fault

/-- A store writes the one byte, at an address of the memory that is no byte of a suspended command's buffer. -/
theorem storeByte_next {a : Nat} {v : Byte} {s t : State} {body : State → Result} :
    storeByte a v s body = .next t ↔
      a ≤ 0xFFFF ∧ ¬(s.ctx = .isr ∧ s.inBuffer s.fg a = true) ∧ body (s.writeMem a v) = .next t := by
  unfold storeByte
  rw [require_next, require_next]

theorem storeByte_fault {a : Nat} {v : Byte} {s : State} {body : State → Result} {f : Fault} :
    storeByte a v s body = .fault f ↔
      a ≤ 0xFFFF ∧ ¬(s.ctx = .isr ∧ s.inBuffer s.fg a = true) ∧ body (s.writeMem a v) = .fault f := by
  unfold storeByte
  rw [require_fault, require_fault]

/-! ### I2C and EEPROM sub-steps (R205, R248) -/

/-- An issue step hands the operation to I2B and clears `done`, with the unit enabled in a phase that admits it. -/
theorem i2cIssue_next {x : I2cOp} {s t : State} {body : State → Result} :
    i2cIssue x s body = .next t ↔
      s.i2c.en = true ∧ admitsI2c x s.i2c.ph = true ∧
        body { s with i2c := { s.i2c with op := some x, done := false } } = .next t := by
  unfold i2cIssue
  rw [require_next, require_next]

theorem i2cIssue_fault {x : I2cOp} {s : State} {body : State → Result} {f : Fault} :
    i2cIssue x s body = .fault f ↔
      s.i2c.en = true ∧ admitsI2c x s.i2c.ph = true ∧
        body { s with i2c := { s.i2c with op := some x, done := false } } = .fault f := by
  unfold i2cIssue
  rw [require_fault, require_fault]

/-- A check goes on, or ends the command with the error result. -/
theorem checkStatus_next {code : Byte} {s t : State} {k : InFlight} {n : Nat} :
    checkStatus code s k n = .next t ↔
      (statusCode s.i2c.sr = code ∧ t = s.goto k n) ∨
        (statusCode s.i2c.sr ≠ code ∧ t = (s.setRes Config.resError).complete) := by
  unfold checkStatus; split <;> simp_all [@eq_comm _ t]

@[simp] theorem checkStatus_fault {code : Byte} {s : State} {k : InFlight} {n : Nat} {f : Fault} :
    ¬ checkStatus code s k n = .fault f := by
  unfold checkStatus; split <;> simp

theorem eepromSend_next {b : Byte} {s t : State} {k : InFlight} {n : Nat} :
    eepromSend b s k n = .next t ↔
      s.i2c.en = true ∧ admitsI2c .write s.i2c.ph = true ∧
        t = ({ s with i2c := { s.i2c with dr := b, op := some .write, done := false } } : State).goto k n := by
  unfold eepromSend
  rw [i2cIssue_next]
  simp [State.setI2cData, @eq_comm _ t]

theorem eepromSend_fault {b : Byte} {s : State} {k : InFlight} {n : Nat} {f : Fault} :
    ¬ eepromSend b s k n = .fault f := by
  unfold eepromSend
  rw [i2cIssue_fault]
  simp

theorem eepromIssue_next {x : I2cOp} {s t : State} {k : InFlight} {n : Nat} :
    eepromIssue x s k n = .next t ↔
      s.i2c.en = true ∧ admitsI2c x s.i2c.ph = true ∧
        t = ({ s with i2c := { s.i2c with op := some x, done := false } } : State).goto k n := by
  unfold eepromIssue
  rw [i2cIssue_next]
  simp [@eq_comm _ t]

theorem eepromIssue_fault {x : I2cOp} {s : State} {k : InFlight} {n : Nat} {f : Fault} :
    ¬ eepromIssue x s k n = .fault f := by
  unfold eepromIssue
  rw [i2cIssue_fault]
  simp

theorem eepromWait_next {code : Byte} {s t : State} {k : InFlight} {n : Nat} :
    eepromWait code s k n = .next t ↔
      (s.i2c.done = true ∧ statusCode s.i2c.sr = code ∧ t = s.goto k n) ∨
        (s.i2c.done = true ∧ statusCode s.i2c.sr ≠ code ∧ t = (s.setRes Config.resError).complete) ∨
          (s.i2c.done = false ∧ t = s) := by
  unfold eepromWait
  rw [holdUntil_next, checkStatus_next]
  constructor
  · rintro (⟨hd, ⟨hc, ht⟩ | ⟨hc, ht⟩⟩ | ⟨hd, ht⟩)
    · exact .inl ⟨hd, hc, ht⟩
    · exact .inr (.inl ⟨hd, hc, ht⟩)
    · exact .inr (.inr ⟨hd, ht⟩)
  · rintro (⟨hd, hc, ht⟩ | ⟨hd, hc, ht⟩ | ⟨hd, ht⟩)
    · exact .inl ⟨hd, .inl ⟨hc, ht⟩⟩
    · exact .inl ⟨hd, .inr ⟨hc, ht⟩⟩
    · exact .inr ⟨hd, ht⟩

theorem eepromWait_fault {code : Byte} {s : State} {k : InFlight} {n : Nat} {f : Fault} :
    ¬ eepromWait code s k n = .fault f := by
  unfold eepromWait
  rw [holdUntil_fault]
  simp

/-! ### Taking an interrupt (R272, R273, R297) -/

/-- `IRQ_ORDER` lets a dispatch take the pending sources before which no other pending source is taken. -/
theorem State.mayTake_iff (s : State) (src : IrqSource) :
    s.mayTake src = true ↔ s.pending src = true ∧ ∀ o, s.pending o = true → (o, src) ∉ s.params.irqFirst := by
  have h (o : IrqSource) : (!(s.pending o && s.params.takesFirst o src)) = true ↔
      (s.pending o = true → (o, src) ∉ s.params.irqFirst) := by
    cases s.pending o <;> simp [Params.takesFirst]
  simp only [State.mayTake, Bool.and_eq_true, List.all_eq_true, h]
  exact and_congr_right fun _ => ⟨fun hs o => hs o (by cases o <;> decide), fun hs o _ => hs o⟩

/-- A dispatch is recorded; the context becomes ISR exactly when the slot holds a reference, which the host then still
honours. -/
theorem takeInterrupt_next {src : IrqSource} {honoured : Bool} {s t : State} :
    takeInterrupt src honoured s = .next t ↔
      (s.slot src = none ∧ t = { s with cbLog := s.cbLog ++ [(src, none)] }) ∨
        ∃ f, s.slot src = some f ∧ honoured = true ∧
          t = { s with cbLog := s.cbLog ++ [(src, some f)], ctx := .isr } := by
  unfold takeInterrupt
  cases hs : s.slot src with
  | none => simp [@eq_comm _ t]
  | some f => simp [require_next, @eq_comm _ t]

theorem takeInterrupt_fault {src : IrqSource} {honoured : Bool} {s : State} {f : Fault} :
    ¬ takeInterrupt src honoured s = .fault f := by
  unfold takeInterrupt
  cases hs : s.slot src <;> simp [require_fault]

/-! ### The host's turns (R24, R74, R280) -/

/-- An issue that is accepted puts the word in flight at u0 in the issuing context and changes nothing else. -/
theorem hostIssue_next {c : Ctx} {w : Word} {s t : State} :
    hostIssue c w s = .next t ↔
      s.ctx = c ∧ (s.bank c).cur = none ∧
        ∃ i, legalCommand w = some i ∧ admissionIn c s i = none ∧
          t = s.setBank c { s.bank c with cur := some (InFlight.issued w) } := by
  unfold hostIssue
  rw [require_next]
  cases hl : legalCommand w with
  | none => simp
  | some i => cases ha : admissionIn c s i <;> simp [ha, and_assoc, @eq_comm _ t]

theorem hostIssue_fault {c : Ctx} {w : Word} {s : State} {f : Fault} : ¬ hostIssue c w s = .fault f := by
  unfold hostIssue
  rw [require_fault]
  cases hl : legalCommand w with
  | none => simp
  | some i => cases ha : admissionIn c s i <;> simp [ha]

theorem hostWrite_next {a : Addr} {v : Byte} {s t : State} :
    hostWrite a v s = .next t ↔
      (s.inBuffer s.fg a.toNat = false ∧ s.inBuffer s.isr a.toNat = false) ∧ t = s.writeMem a.toNat v := by
  unfold hostWrite
  rw [require_next]
  simp [@eq_comm _ t]

theorem hostWrite_fault {a : Addr} {v : Byte} {s : State} {f : Fault} : ¬ hostWrite a v s = .fault f := by
  unfold hostWrite
  rw [require_fault]
  simp

end Sys2Proof.Machine
end

