-- ==== Sys2Proof/Laws/Bits.lean ====
section
/-!
SUPPORT. Fields of command words and of the status register as arithmetic over the naturals, in the numerals that `omega`
takes.
-/

namespace Sys2Proof

/-- A field of a word: bits [k+n-1:k]. -/
theorem field_toNat (w : Word) (k n : Nat) : (w.extractLsb' k n).toNat = w.toNat / 2 ^ k % 2 ^ n := by
  rw [BitVec.extractLsb'_toNat, Nat.shiftRight_eq_div_pow]

/-- A bit of a word. -/
theorem bit_eq (w : Word) (k : Nat) : w.getLsbD k = decide (w.toNat / 2 ^ k % 2 = 1) := by
  rw [← BitVec.testBit_toNat, Nat.testBit_eq_decide_div_mod_eq]

/-- The opcode of a word (R100). -/
theorem opcodeOf_toNat (w : Word) : (opcodeOf w).toNat = w.toNat / 2 ^ 56 % 2 ^ 8 := field_toNat w 56 8

theorem encodeZ_toNat {op : Nat} (h : op < 256) : (encodeZ op).toNat = op * 2 ^ 56 := by
  rw [encodeZ, BitVec.toNat_ofNat]
  omega

theorem encodeB_toNat {op : Nat} (h : op < 256) (b : Byte) : (encodeB op b).toNat = op * 2 ^ 56 + b.toNat := by
  have := b.isLt
  rw [encodeB, BitVec.toNat_ofNat]
  omega

theorem encodeP_toNat {op : Nat} (h : op < 256) (p : Addr) : (encodeP op p).toNat = op * 2 ^ 56 + p.toNat := by
  have := p.isLt
  rw [encodeP, BitVec.toNat_ofNat]
  omega

theorem encodeU_toNat {op : Nat} (h : op < 256) (baud : BitVec 32) (safe : Byte) (par wlen : BitVec 2)
    (txm rxm rate : Bool) :
    (encodeU op baud safe par wlen txm rxm rate).toNat =
      op * 2 ^ 56 + rate.toNat * 2 ^ 46 + rxm.toNat * 2 ^ 45 + txm.toNat * 2 ^ 44 + wlen.toNat * 2 ^ 42 +
        par.toNat * 2 ^ 40 + safe.toNat * 2 ^ 32 + baud.toNat := by
  have h1 := baud.isLt
  have h2 := safe.isLt
  have h3 := par.isLt
  have h4 := wlen.isLt
  have h5 := txm.toNat_le
  have h6 := rxm.toNat_le
  have h7 := rate.toNat_le
  rw [encodeU, BitVec.toNat_ofNat]
  omega

theorem encodeT_toNat {op : Nat} (h : op < 256) (tier : BitVec 2) (addr7 : BitVec 7) :
    (encodeT op tier addr7).toNat = op * 2 ^ 56 + tier.toNat * 2 ^ 8 + addr7.toNat := by
  have h1 := tier.isLt
  have h2 := addr7.isLt
  rw [encodeT, BitVec.toNat_ofNat]
  omega

theorem encodeC_toNat {op : Nat} (h : op < 256) (dir reg : Bool) (fn : FnRef) :
    (encodeC op dir reg fn).toNat = op * 2 ^ 56 + reg.toNat * 2 ^ 17 + dir.toNat * 2 ^ 16 + fn.toNat := by
  have h1 := dir.toNat_le
  have h2 := reg.toNat_le
  have h3 := fn.isLt
  rw [encodeC, BitVec.toNat_ofNat]
  omega

theorem encodeW_toNat {op : Nat} (h : op < 256) (ea : EepromAddr) (data : Byte) :
    (encodeW op ea data).toNat = op * 2 ^ 56 + data.toNat * 2 ^ 16 + ea.toNat := by
  have h1 := ea.isLt
  have h2 := data.isLt
  rw [encodeW, BitVec.toNat_ofNat]
  omega

theorem encodeR_toNat {op : Nat} (h : op < 256) (ea : EepromAddr) (out : Addr) :
    (encodeR op ea out).toNat = op * 2 ^ 56 + out.toNat * 2 ^ 16 + ea.toNat := by
  have h1 := ea.isLt
  have h2 := out.isLt
  rw [encodeR, BitVec.toNat_ofNat]
  omega

namespace Machine

/-- Writing the status bits keeps bits [2:0] (R220). -/
theorem withStatus_low (sr : Byte) (code : BitVec 5) : (withStatus sr code).toNat % 8 = sr.toNat % 8 := by
  have h1 := code.isLt
  have h2 := sr.isLt
  rw [withStatus, BitVec.toNat_ofNat]
  omega

/-- The status register after an init holds the prescaler in its low bits (R202). -/
theorem statusAfterInit_low (code : BitVec 5) (ps : BitVec 2) : (statusAfterInit code ps).toNat % 8 = ps.toNat := by
  have h1 := code.isLt
  have h2 := ps.isLt
  rw [statusAfterInit, BitVec.toNat_ofNat]
  omega

/-- The mask 0xF8 keeps the five status bits (R218). -/
theorem statusCode_toNat : ∀ sr : Byte, (statusCode sr).toNat = sr.toNat / 8 * 8 := by
  decide +kernel

/-- The masked status after an operation left a code. -/
theorem statusCode_withStatus (sr : Byte) (code : BitVec 5) : (statusCode (withStatus sr code)).toNat = 8 * code.toNat := by
  have h1 := code.isLt
  have h2 := sr.isLt
  rw [statusCode_toNat, withStatus, BitVec.toNat_ofNat]
  omega

/-- The status bits of a code. -/
theorem codeBits_toNat (code : Byte) : (codeBits code).toNat = code.toNat / 8 := by
  have := code.isLt
  rw [codeBits, BitVec.extractLsb'_toNat, Nat.shiftRight_eq_div_pow]
  omega

/-- A code with bits [2:0] zero compares equal after the mask exactly when it is the code the operation left. -/
theorem statusCode_withStatus_eq (sr c : Byte) (code : BitVec 5) (hc : c.toNat % 8 = 0) :
    statusCode (withStatus sr code) = c ↔ code = codeBits c := by
  have h1 := c.isLt
  constructor
  · intro h
    have := congrArg BitVec.toNat h
    rw [statusCode_withStatus] at this
    apply BitVec.eq_of_toNat_eq
    rw [codeBits_toNat]
    omega
  · intro h
    apply BitVec.eq_of_toNat_eq
    rw [statusCode_withStatus, h, codeBits_toNat]
    omega

/-- A failure never leaves the success code of its operation (R226). -/
theorem failBits_ne (okcode : Byte) (d : BitVec 5) : failBits okcode d ≠ codeBits okcode := by
  unfold failBits
  split
  · next h =>
    rw [h]
    generalize codeBits okcode = c
    revert c
    decide
  · next h => exact h

end Machine

end Sys2Proof
end

