-- ==== Sys2Proof/Laws/Device.lean ====
section
/-!
SUPPORT. The write time of the reference device (44_eeprom.md rule R254, `EE_BUSY`): it declines only while a decline is
left to it, and every decline takes one away.
-/

namespace Sys2Proof.Machine

@[simp] theorem Device.release_declinesLeft (d : Device) : d.release.declinesLeft = d.declinesLeft := rfl

/-- The device's answer to its own select byte: a decline, which takes one away, or the acknowledge, which takes none. -/
theorem deviceReply_select {s : State} {declines : Bool} (hop : s.i2c.op = some .write) (hph : s.i2c.ph = .addr)
    (hdst : s.dev.dst = .sel) (hb : s.i2c.dr.extractLsb' 4 4 = 0b1010) :
    s.deviceReply declines =
      if declines = true ∧ s.params.eeBusy = true ∧ 0 < s.dev.declinesLeft then
        (.nack, { s.dev with dst := .idle, declinesLeft := s.dev.declinesLeft - 1 })
      else
        (.ok 0, { s.dev with
          dptr := pointerWith (s.i2c.dr.extractLsb' 1 3) (s.dev.dptr.extractLsb' 0 8)
          dst := if s.i2c.dr.getLsbD 0 then .selR else .addrW }) := by
  simp [State.deviceReply, Device.onAddress, State.deviceBusy, hop, hph, hdst, hb]

/-- No answer of the device but the one to a second data byte gives it a decline back. -/
theorem deviceReply_declinesLeft_le (s : State) (declines : Bool) (h : s.dev.dst = .dataW → s.dev.stored = false) :
    (s.deviceReply declines).2.declinesLeft ≤ s.dev.declinesLeft := by
  unfold State.deviceReply
  split
  · exact Nat.le_refl _
  · simp only [Device.onAddress]
    split
    · split
      · exact Nat.le_refl _
      · split
        · exact Nat.sub_le _ _
        · exact Nat.le_refl _
    all_goals exact Nat.le_refl _
  · simp only [Device.onData]
    split
    · exact Nat.le_refl _
    · next hd => rw [if_neg (by simp [h hd])]
    all_goals exact Nat.le_refl _
  all_goals (try simp only [Device.onRead]; split) <;> exact Nat.le_refl _

end Sys2Proof.Machine
end

