-- ==== Sys2Proof/Laws/PerInstr.lean ====
section
/-!
SUPPORT. One lemma per command: the opcode bits of its word are those of its row of the opcode table (R100, R110).
-/

namespace Sys2Proof.Laws.OpcodeOfItsRow

/-- The word of the command holds the opcode of the command's row, and the row's pattern holds that opcode and nothing
else. -/
def Statement (i : Instr) : Prop :=
  opcodeOf (encode i) = opcodeOf (rowOf i).pattern ∧ (rowOf i).pattern.toNat % 2 ^ 56 = 0

/-- A word that is an opcode over a smaller operand field has the opcode of a row whose pattern is that opcode. -/
theorem of_word {i : Instr} {op low : Nat} {pattern : Word} (hr : (rowOf i).pattern = pattern)
    (hw : (encode i).toNat = op * 2 ^ 56 + low) (hl : low < 2 ^ 56) (hp : pattern.toNat = op * 2 ^ 56) : Statement i := by
  refine ⟨BitVec.eq_of_toNat_eq ?_, ?_⟩
  · rw [opcodeOf_toNat, opcodeOf_toNat, hr, hw, hp]
    omega
  · rw [hr, hp]
    omega

theorem iret : Statement .iret :=
  of_word (op := 0x01) (low := 0) rfl (encodeZ_toNat (by decide)) (by decide) (by decide)

theorem uartInit (baud : BitVec 32) (safe : Byte) (par wlen : BitVec 2) (txm rxm rate : Bool) : Statement (.uartInit baud safe par wlen txm rxm rate) := by
  have h0 := baud.isLt
  have h1 := safe.isLt
  have h2 := par.isLt
  have h3 := wlen.isLt
  have h4 := txm.toNat_le
  have h5 := rxm.toNat_le
  have h6 := rate.toNat_le
  exact of_word (op := 0x10) (pattern := 0x1000000000000000)
    (low := rate.toNat * 2 ^ 46 + rxm.toNat * 2 ^ 45 + txm.toNat * 2 ^ 44 + wlen.toNat * 2 ^ 42 +
      par.toNat * 2 ^ 40 + safe.toNat * 2 ^ 32 + baud.toNat) rfl ((encodeU_toNat (by decide) baud safe par wlen txm rxm rate).trans (by omega))
    (by omega) (by decide)

theorem uartSend (b : Byte) : Statement (.uartSend b) := by
  have h0 := b.isLt
  exact of_word (op := 0x11) (pattern := 0x1100000000000000)
    (low := b.toNat) rfl ((encodeB_toNat (by decide) b).trans (by omega))
    (by omega) (by decide)

theorem uartRecv : Statement .uartRecv :=
  of_word (op := 0x12) (low := 0) rfl (encodeZ_toNat (by decide)) (by decide) (by decide)

theorem uartSends (ptr : Addr) : Statement (.uartSends ptr) := by
  have h0 := ptr.isLt
  exact of_word (op := 0x13) (pattern := 0x1300000000000000)
    (low := ptr.toNat) rfl ((encodeP_toNat (by decide) ptr).trans (by omega))
    (by omega) (by decide)

theorem uartRecvs (ptr : Addr) : Statement (.uartRecvs ptr) := by
  have h0 := ptr.isLt
  exact of_word (op := 0x14) (pattern := 0x1400000000000000)
    (low := ptr.toNat) rfl ((encodeP_toNat (by decide) ptr).trans (by omega))
    (by omega) (by decide)

theorem uartSetcb (dir reg : Bool) (fn : FnRef) : Statement (.uartSetcb dir reg fn) := by
  have h0 := dir.toNat_le
  have h1 := reg.toNat_le
  have h2 := fn.isLt
  exact of_word (op := 0x15) (pattern := 0x1500000000000000)
    (low := reg.toNat * 2 ^ 17 + dir.toNat * 2 ^ 16 + fn.toNat) rfl ((encodeC_toNat (by decide) dir reg fn).trans (by omega))
    (by omega) (by decide)

theorem spiInitm : Statement .spiInitm :=
  of_word (op := 0x20) (low := 0) rfl (encodeZ_toNat (by decide)) (by decide) (by decide)

theorem spiInits : Statement .spiInits :=
  of_word (op := 0x21) (low := 0) rfl (encodeZ_toNat (by decide)) (by decide) (by decide)

theorem spiSend (b : Byte) : Statement (.spiSend b) := by
  have h0 := b.isLt
  exact of_word (op := 0x22) (pattern := 0x2200000000000000)
    (low := b.toNat) rfl ((encodeB_toNat (by decide) b).trans (by omega))
    (by omega) (by decide)

theorem spiRecv : Statement .spiRecv :=
  of_word (op := 0x23) (low := 0) rfl (encodeZ_toNat (by decide)) (by decide) (by decide)

theorem spiSends (ptr : Addr) : Statement (.spiSends ptr) := by
  have h0 := ptr.isLt
  exact of_word (op := 0x24) (pattern := 0x2400000000000000)
    (low := ptr.toNat) rfl ((encodeP_toNat (by decide) ptr).trans (by omega))
    (by omega) (by decide)

theorem spiRecvs (ptr : Addr) : Statement (.spiRecvs ptr) := by
  have h0 := ptr.isLt
  exact of_word (op := 0x25) (pattern := 0x2500000000000000)
    (low := ptr.toNat) rfl ((encodeP_toNat (by decide) ptr).trans (by omega))
    (by omega) (by decide)

theorem spiSetcb (dir reg : Bool) (fn : FnRef) : Statement (.spiSetcb dir reg fn) := by
  have h0 := dir.toNat_le
  have h1 := reg.toNat_le
  have h2 := fn.isLt
  exact of_word (op := 0x26) (pattern := 0x2600000000000000)
    (low := reg.toNat * 2 ^ 17 + dir.toNat * 2 ^ 16 + fn.toNat) rfl ((encodeC_toNat (by decide) dir reg fn).trans (by omega))
    (by omega) (by decide)

theorem i2cInit (tier : BitVec 2) (addr7 : BitVec 7) : Statement (.i2cInit tier addr7) := by
  have h0 := tier.isLt
  have h1 := addr7.isLt
  exact of_word (op := 0x30) (pattern := 0x3000000000000000)
    (low := tier.toNat * 2 ^ 8 + addr7.toNat) rfl ((encodeT_toNat (by decide) tier addr7).trans (by omega))
    (by omega) (by decide)

theorem i2cStart : Statement .i2cStart :=
  of_word (op := 0x31) (low := 0) rfl (encodeZ_toNat (by decide)) (by decide) (by decide)

theorem i2cWrite (b : Byte) : Statement (.i2cWrite b) := by
  have h0 := b.isLt
  exact of_word (op := 0x32) (pattern := 0x3200000000000000)
    (low := b.toNat) rfl ((encodeB_toNat (by decide) b).trans (by omega))
    (by omega) (by decide)

theorem i2cRdack : Statement .i2cRdack :=
  of_word (op := 0x33) (low := 0) rfl (encodeZ_toNat (by decide)) (by decide) (by decide)

theorem i2cRdnack : Statement .i2cRdnack :=
  of_word (op := 0x34) (low := 0) rfl (encodeZ_toNat (by decide)) (by decide) (by decide)

theorem i2cStop : Statement .i2cStop :=
  of_word (op := 0x35) (low := 0) rfl (encodeZ_toNat (by decide)) (by decide) (by decide)

theorem i2cStatus : Statement .i2cStatus :=
  of_word (op := 0x36) (low := 0) rfl (encodeZ_toNat (by decide)) (by decide) (by decide)

theorem eeInit : Statement .eeInit :=
  of_word (op := 0x40) (low := 0) rfl (encodeZ_toNat (by decide)) (by decide) (by decide)

theorem eeWrite (ea : EepromAddr) (data : Byte) : Statement (.eeWrite ea data) := by
  have h0 := ea.isLt
  have h1 := data.isLt
  exact of_word (op := 0x41) (pattern := 0x4100000000000000)
    (low := data.toNat * 2 ^ 16 + ea.toNat) rfl ((encodeW_toNat (by decide) ea data).trans (by omega))
    (by omega) (by decide)

theorem eeRead (ea : EepromAddr) (out : Addr) : Statement (.eeRead ea out) := by
  have h0 := ea.isLt
  have h1 := out.isLt
  exact of_word (op := 0x42) (pattern := 0x4200000000000000)
    (low := out.toNat * 2 ^ 16 + ea.toNat) rfl ((encodeR_toNat (by decide) ea out).trans (by omega))
    (by omega) (by decide)

end Sys2Proof.Laws.OpcodeOfItsRow
end

