-- ==== Sys2Proof/Laws/Wire.lean ====
section
/-!
SUPPORT. The bits of an I2C byte on the bus, one by one, and the end that drives each (20_memory.md rule R88).
-/

namespace Sys2Proof.Machine

@[simp] theorem i2cBits_length (b : Byte) : (i2cBits b).length = 8 := by simp [i2cBits, lsbFirst]

@[simp] theorem i2cByteBits_length (b : Byte) (k : Ack) : (i2cByteBits b k).length = 9 := by simp [i2cByteBits]

/-- The first eight bits are the byte's, bit 7 first. -/
theorem i2cByteBits_data (b : Byte) (k : Ack) (n : Nat) (h : n < 8) : (i2cByteBits b k)[n]? = some (b.getLsbD (7 - n)) := by
  interval_cases n <;> rfl

/-- The ninth is the acknowledge bit. -/
theorem i2cByteBits_ack (b : Byte) (k : Ack) : (i2cByteBits b k)[8]? = some (ackBit k) := by
  simp [i2cByteBits]

/-- An event that is a byte puts its nine bits on the bus: its sender drives eight of them and its receiver the ninth. -/
theorem eventBits_of_byte {ev : BusEvent} {sender : BusEnd} {b : Byte} {k : Ack} (h : busByte ev = some (sender, b, k)) :
    (eventBits ev).map Prod.snd = i2cByteBits b k ∧
      (eventBits ev).map Prod.fst = List.replicate 8 sender ++ [sender.other] := by
  constructor <;> simp [eventBits, h, i2cByteBits, i2cBits, lsbFirst, Function.comp_def, List.replicate]

end Sys2Proof.Machine
end

