-- ==== Sys2Proof/Tests/Slice0.lean ====
section
/-!
SUPPORT. The model's own tests. The expected results are those of 95_test_vectors.md and of the examples in the rules; a
test names its table or rule.
-/

namespace Sys2Proof.Tests

open Sys2Proof Sys2Proof.Machine

-- The tests are checked one after another: their threads together would not fit the memory of a check.
set_option Elab.async false

/-! ### Helpers -/

/-- The result is a next state with the property. -/
def goes (r : Result) (p : State → Bool) : Bool :=
  match r with
  | .next t => p t
  | .fault _ => false
  | .refused _ => false

/-- The result is a refusal for the reason. -/
def refuses (r : Result) (x : Refusal) : Bool :=
  match r with
  | .next _ => false
  | .fault _ => false
  | .refused y => y == x

/-- The record of a command at a micro-step. -/
def record (i : Instr) (n : Nat) : InFlight := { InFlight.issued (encode i) with uph := n }

/-- The state with the command in flight in the current context, at a micro-step. -/
def running (s : State) (i : Instr) (n : Nat) : State := s.setCur (some (record i n))

/-- A unit UART as `UART_INIT baud=9600, par=even, w=8, safe=0x3F` leaves it. -/
def uartOn : Uart :=
  { Uart.reset with
    par := 2, wlen := 3, baud := 9600, safe := 0x3F, divl := 0x67, rxen := true, txen := true, inited := true }

/-- The reset state with that UART. -/
def withUart (u : Uart) : State := { State.reset with uart := u }

/-- A unit SPI after one of its init commands. -/
def spiOn (master : Bool) : Spi :=
  if master then (Spi.reset.configured Params.suggested true).masterLines
  else (Spi.reset.configured Params.suggested false).slaveLines

/-- The reset state with that SPI. -/
def withSpi (u : Spi) : State := { State.reset with spi := u }

/-- A unit I2C initialised at 100 kHz, in a phase, with a status register. -/
def i2cOn (ph : I2cPhase) (owned : Bool) (sr : Byte) : I2c :=
  { I2c.reset with en := true, brr := 8, ps := 1, addr := 1, gce := true, ph := ph, owned := owned, sr := sr }

/-- The reset state with that I2C unit. -/
def withI2c (u : I2c) : State := { State.reset with i2c := u }

/-- The state in the context of a handler. -/
def inHandler (s : State) : State := { s with ctx := .isr }

/-! ### WellFormed: each check refuses an ill-formed command (R114) -/

theorem test_wellFormed_parity : Instr.wellFormed (.uartInit 9600 0 3 3 false false false) = false := by decide
theorem test_wellFormed_baud : Instr.wellFormed (.uartInit 0 0 0 3 false false false) = false := by decide
theorem test_wellFormed_dir : Instr.wellFormed (.spiSetcb true true 0x40) = false := by decide
theorem test_wellFormed_tier : Instr.wellFormed (.i2cInit 3 0) = false := by decide

/-! ### Decoding: one word of every command, written out from its encoding (R100 to R110, table 2.1) -/

theorem test_decode_iret : legalCommand 0x0100000000000000 = some .iret := by decide
theorem test_decode_uartInit :
    legalCommand 0x1000293F0001C200 = some (.uartInit 115200 0x3F 1 2 false true false) := by decide
theorem test_decode_uartInit_tx :
    legalCommand 0x10001C0000002580 = some (.uartInit 9600 0 0 3 true false false) := by decide
theorem test_decode_uartSend : legalCommand 0x1100000000000041 = some (.uartSend 0x41) := by decide
theorem test_decode_uartRecv : legalCommand 0x1200000000000000 = some .uartRecv := by decide
theorem test_decode_uartSends : legalCommand 0x1300000000000100 = some (.uartSends 0x0100) := by decide
theorem test_decode_uartRecvs : legalCommand 0x1400000000000200 = some (.uartRecvs 0x0200) := by decide
theorem test_decode_uartSetcb : legalCommand 0x1500000000031234 = some (.uartSetcb true true 0x1234) := by decide
theorem test_decode_uartClrcb : legalCommand 0x1500000000000000 = some (.uartClrcb false) := by decide
theorem test_decode_spiInitm : legalCommand 0x2000000000000000 = some .spiInitm := by decide
theorem test_decode_spiInits : legalCommand 0x2100000000000000 = some .spiInits := by decide
theorem test_decode_spiSend : legalCommand 0x22000000000000A5 = some (.spiSend 0xA5) := by decide
theorem test_decode_spiRecv : legalCommand 0x2300000000000000 = some .spiRecv := by decide
theorem test_decode_spiSends : legalCommand 0x2400000000000100 = some (.spiSends 0x0100) := by decide
theorem test_decode_spiRecvs : legalCommand 0x2500000000000200 = some (.spiRecvs 0x0200) := by decide
theorem test_decode_spiSetcb : legalCommand 0x2600000000020040 = some (.spiSetcb false true 0x0040) := by decide
theorem test_decode_i2cInit : legalCommand 0x300000000000007F = some (.i2cInit 0 0x7F) := by decide
theorem test_decode_i2cInit_400k : legalCommand 0x3000000000000200 = some (.i2cInit 2 0) := by decide
theorem test_decode_i2cStart : legalCommand 0x3100000000000000 = some .i2cStart := by decide
theorem test_decode_i2cWrite : legalCommand 0x32000000000000A4 = some (.i2cWrite 0xA4) := by decide
theorem test_decode_i2cRdack : legalCommand 0x3300000000000000 = some .i2cRdack := by decide
theorem test_decode_i2cRdnack : legalCommand 0x3400000000000000 = some .i2cRdnack := by decide
theorem test_decode_i2cStop : legalCommand 0x3500000000000000 = some .i2cStop := by decide
theorem test_decode_i2cStatus : legalCommand 0x3600000000000000 = some .i2cStatus := by decide
theorem test_decode_eeInit : legalCommand 0x4000000000000000 = some .eeInit := by decide
theorem test_decode_eeWrite : legalCommand 0x4100000000FF07FF = some (.eeWrite 0x7FF 0xFF) := by decide
theorem test_decode_eeRead : legalCommand 0x42000000FFFF0000 = some (.eeRead 0 0xFFFF) := by decide

/-- The illegal words of table 2.1. -/
theorem test_decode_illegal :
    ([0x10000C0000000000, 0x10000F0000002580, 0x10008C0000002580, 0x1100000000000141, 0x2600000000030040,
        0x3000000000000300, 0x3000000000000181, 0x4100000000000800, 0, 0x1600000000000000, 0x2700000000000000,
        0x3700000000000000, 0x4300000000000000, 0xFF00000000000000] : List Word).all
      (fun w => legalCommand w == none) = true := by decide

/-- Little-endian bytes of a stored word (R78; program P2). -/
theorem test_wordBytes : wordBytes 0x41000000005A02A5 = [0xA5, 0x02, 0x5A, 0x00, 0x00, 0x00, 0x00, 0x41] := by decide

theorem test_decodeTableWord : decodeTableWord 64 0x41000000005A02A5 = some (.eeWrite 0x2A5 0x5A) := by decide

/-- No two rows of the opcode table overlap: a word of both would agree with both patterns on the bits both masks see. -/
theorem test_rows_disjoint :
    opcodeTable.Pairwise (fun r q => r.pattern &&& q.mask &&& r.mask ≠ q.pattern &&& r.mask &&& q.mask) := by decide

/-! ### Assembler (R117, R118) -/

theorem test_assemble_defaults : assemble "UART_INIT baud=9600" = some 0x10000C0000002580 := by decide +kernel
theorem test_assemble_clear : assemble "UART_CLRCB dir=rx ; comment" = some 0x1500000000010000 := by decide +kernel
theorem test_assemble_out_of_range : assemble "EE_WRITE a=0x800, d=0" = none := by decide +kernel

/-! ### Derived operands and flags (tables 2.2, 2.3, 2.6; R133, R153, R154, R203, R241) -/

/-- Table 2.2, F_CLK = 8,000,000. -/
theorem test_divisor :
    ([(2400, some 0x01A0), (4800, some 0x00CF), (9600, some 0x0067), (19200, some 0x0033), (38400, some 0x0019),
        (57600, some 0x0010), (115200, some 0x0008), (400000, some 2), (666666, some 1), (666667, some 0),
        (1000000, some 0), (2000001, none), (16, some 0xF423), (15, none)] :
      List (Nat × Option (BitVec 16))).all (fun r => baudDivisor 8000000 r.1 == r.2) = true := by decide

/-- Table 2.2, the two rows at other clocks. -/
theorem test_divisor_clock : baudDivisor 16000000 9600 = some 207 ∧ baudDivisor 1000000 9600 = some 12 := by decide

/-- A row of Bools written as 0 and 1. -/
def line (bs : List Nat) : List Bool := bs.map (· == 1)

/-- Table 2.3. -/
theorem test_frames :
    frameBits 8 0 0x41 = line [0, 1, 0, 0, 0, 0, 0, 1, 0, 1] ∧
      frameBits 8 2 0x41 = line [0, 1, 0, 0, 0, 0, 0, 1, 0, 0, 1] ∧
      frameBits 8 1 0x41 = line [0, 1, 0, 0, 0, 0, 0, 1, 0, 1, 1] ∧
      frameBits 8 1 0x00 = line [0, 0, 0, 0, 0, 0, 0, 0, 0, 1, 1] ∧
      frameBits 7 2 0x41 = line [0, 1, 0, 0, 0, 0, 0, 1, 0, 1] ∧
      frameBits 6 1 0x2A = line [0, 0, 1, 0, 1, 0, 1, 0, 1] ∧
      frameBits 5 0 0x15 = line [0, 1, 0, 1, 0, 1, 1] ∧ frameBits 5 2 0x1F = line [0, 1, 1, 1, 1, 1, 1, 1] := by
  decide

/-- A frame with a wrong parity bit and a stop bit sampled 0 (R154). -/
theorem test_parse : parseFrame 5 2 (line [1, 0, 1, 0, 1, 0, 1, 0, 0]) = some (0x15, false, false) := by decide

/-- The two orders of an SPI byte (R87, R188) and the order on I2C (R88). -/
theorem test_serial_order :
    spiBits false 0xA1 = line [1, 0, 1, 0, 0, 0, 0, 1] ∧ spiBits true 0xA2 = line [0, 1, 0, 0, 0, 1, 0, 1] ∧
      i2cBits 0xA2 = line [1, 0, 1, 0, 0, 0, 1, 0] ∧ addressByte 0b1010010 true = 0xA5 := by decide

/-- The nine bits of a byte on I2C: the receiver drives the ninth, the device for a byte sent, the master for a byte read
(R88). -/
theorem test_i2c_nine_bits :
    i2cByteBits 0xA2 .a = line [1, 0, 1, 0, 0, 0, 1, 0, 0] ∧ i2cByteBits 0x01 .n = line [0, 0, 0, 0, 0, 0, 0, 1, 1] ∧
      (eventBits (.addr 0xA2 .a)).map Prod.fst = List.replicate 8 .master ++ [.device] ∧
      (eventBits (.read 0x01 .n)).map Prod.fst = List.replicate 8 .device ++ [.master] ∧
      (eventBits (.data 0xA2 .n)).map Prod.snd = i2cByteBits 0xA2 .n ∧ eventBits .stop = [] := by decide

/-- Table 2.6, the select byte and the low byte. -/
theorem test_select_byte :
    ([(0x000, 0xA0, 0xA1, 0x00), (0x0FF, 0xA0, 0xA1, 0xFF), (0x100, 0xA2, 0xA3, 0x00), (0x2A5, 0xA4, 0xA5, 0xA5),
        (0x3C0, 0xA6, 0xA7, 0xC0), (0x400, 0xA8, 0xA9, 0x00), (0x555, 0xAA, 0xAB, 0x55), (0x7FF, 0xAE, 0xAF, 0xFF)] :
      List (EepromAddr × Byte × Byte × Byte)).all
      (fun r => selectByte r.1 false == r.2.1 && selectByte r.1 true == r.2.2.1 && lowAddress r.1 == r.2.2.2) = true := by
  decide

/-- S1, the speed tiers. -/
theorem test_tiers : i2cTier 0 = (98, 1) ∧ i2cTier 1 = (8, 1) ∧ i2cTier 2 = (2, 0) := by decide

/-- S11, the status mask. -/
theorem test_status_mask : statusCode 0x19 = 0x18 ∧ statusCode 0xFB = 0xF8 ∧ statusCode 0x07 = 0x00 := by decide

/-- A failure code is never the success code of the operation, whatever is drawn (R226). -/
theorem test_failBits : ∀ c : BitVec 5, failBits 0x18 c ≠ codeBits 0x18 := by decide

/-! ### Reset (R56) -/

theorem test_reset_flags :
    State.reset.uart.txe = true ∧ State.reset.uart.rxc = false ∧ State.reset.i2c.sr.toNat % 8 = 0 ∧
      State.reset.spi.dirSo = .input ∧ State.reset.mem = [] := by decide

/-- The power-on reset keeps host memory and drops the frame not yet sent (R292). -/
theorem test_powerOn :
    (powerOn { withUart { uartOn with txe := false } with mem := [(3, 7)] }).uart = Uart.reset ∧
      (powerOn { withUart { uartOn with txe := false } with mem := [(3, 7)] }).mem = [(3, 7)] := by decide

/-- With no turn left the block does nothing (R291). -/
theorem test_step_idle : goes (step State.reset) (· == State.reset) = true := by decide

/-- The word placed by withFetchWord is the one that the next step runs. -/
theorem test_step_fetches :
    goes (step (State.reset.withFetchWord 64 0x1500000000031234)) (·.uart.cbRx == some 0x1234) = true := by decide

/-! ### UART (table 2.4) -/

/-- The example of R132. -/
theorem test_uartInit :
    goes (exec (.uartInit 9600 0x3F 2 3 false false true) (running State.reset (.uartInit 9600 0x3F 2 3 false false true) 0))
      (fun t => t.uart == { uartOn with rate := true } && t.fg.cur == none) = true := by decide

theorem test_uartInit_range :
    refuses (exec (.uartInit 15 0 0 3 false false false) (running State.reset (.uartInit 15 0 0 3 false false false) 0))
      .divisorRange = true := by decide

/-- A short word: the upper bits are dropped. -/
theorem test_uartSend_short :
    goes (exec (.uartSend 0xF5) (running (withUart { uartOn with wlen := 0 }) (.uartSend 0xF5) 0))
      (fun t => t.uart.txd == 0x15 && !t.uart.txe && t.fg.cur == none) = true := by decide

theorem test_uartSend_before_init :
    refuses (exec (.uartSend 0) (running State.reset (.uartSend 0) 0)) .notInitialised = true := by decide

/-- A parity error returns the safe byte. -/
theorem test_uartRecv_parity :
    goes (exec .uartRecv (running (withUart { uartOn with rxd := 0x41, rxc := true, pe := true }) .uartRecv 0))
      (fun t => t.fg.ret == 0x3F && t.uart == { uartOn with rxd := 0x41, subst := true }) = true := by decide

/-- With parity off a parity flag does not count. -/
theorem test_uartRecv_no_parity :
    goes (exec .uartRecv (running (withUart { uartOn with par := 0, rxd := 0x41, rxc := true, pe := true }) .uartRecv 0))
      (fun t => t.fg.ret == 0x41 && !t.uart.subst && !t.uart.rxc) = true := by decide

/-- A zero byte is sent and ends the string. -/
theorem test_uartSends_end :
    goes (exec (.uartSends 0x100) (running (withUart uartOn) (.uartSends 0x100) 2))
      (fun t => t.fg.cur == none && !t.uart.txe) = true := by decide

/-- The step past the end of memory is refused. -/
theorem test_uartSends_range :
    refuses (exec (.uartSends 0xFFFE)
      ((withUart uartOn).setCur (some { record (.uartSends 0xFFFE) 1 with sp := 0x10000 }))) .addressRange = true := by
  decide

/-- A line error on the length prefix makes the count the safe byte. -/
theorem test_uartRecvs_prefix :
    goes (exec (.uartRecvs 0x200)
        (running (withUart { uartOn with safe := 2, rxd := 9, rxc := true, pe := true }) (.uartRecvs 0x200) 0))
      (fun t => t.fg.cur == some { record (.uartRecvs 0x200) 1 with sn := 2, si := 2, sp := 0x200 }) = true := by decide

/-- A payload byte is stored, and the count goes down. -/
theorem test_uartRecvs_store :
    goes (exec (.uartRecvs 0x200)
        ((withUart { uartOn with rxd := 0x41, rxc := true }).setCur
          (some { record (.uartRecvs 0x200) 1 with sn := 3, si := 3, sp := 0x200 })))
      (fun t => t.mem == [(0x200, 0x41)] &&
        t.fg.cur == some { record (.uartRecvs 0x200) 1 with sn := 2, si := 3, sp := 0x201 }) = true := by decide

theorem test_uartSetcb :
    goes (exec (.uartSetcb true true 0x2000) (running (withUart { uartOn with cbRx := some 0x1234 }) (.uartSetcb true true 0x2000) 0))
      (fun t => t.uart == { uartOn with cbRx := some 0x2000 }) = true := by decide

theorem test_uartSetcb_handler :
    refuses (exec (.uartSetcb false true 0x10) (running (inHandler State.reset) (.uartSetcb false true 0x10) 0))
      .setcbInHandler = true := by decide

/-- The frame of the example of R135. -/
theorem test_utx :
    (utxStep (withUart { uartOn with txd := 0x41, txe := false })).uart =
      { uartOn with txd := 0x41, txline := [⟨8, 2, 0x41, some false⟩] } := by decide

/-- A parity error is flagged; a frame on a full register is dropped. -/
theorem test_urx :
    (urxStep (.frame 0x41 true true) (withUart uartOn)).uart =
        { uartOn with rxd := 0x41, pe := true, rxc := true, rxlog := [⟨0x41, some true, true, .accepted⟩] } ∧
      (urxStep (.frame 0x42 false true) (withUart { uartOn with rxd := 0x41, rxc := true })).uart =
        { uartOn with rxd := 0x41, rxc := true, rxlog := [⟨0x42, some false, true, .dropped⟩] } := by decide

/-! ### SPI (table 2.5) -/

theorem test_spiInitm :
    goes (exec .spiInitm (running State.reset .spiInitm 0))
      (fun t => (t.spi.dirCs, t.spi.dirCk, t.spi.dirMo, t.spi.dirSo) == (.output, .output, .output, .input) &&
        t.spi.mstr && t.spi.en && t.spi.inited) = true := by decide

theorem test_spiInits :
    goes (exec .spiInits (running State.reset .spiInits 0))
      (fun t => (t.spi.dirCs, t.spi.dirCk, t.spi.dirMo, t.spi.dirSo) == (.input, .input, .input, .output) &&
        !t.spi.mstr && t.spi.en) = true := by decide

theorem test_spiInits_twice :
    refuses (exec .spiInits (running (withSpi (spiOn true)) .spiInits 0)) .initTwice = true := by decide

theorem test_spiSend :
    goes (exec (.spiSend 0xA5) (running (withSpi { spiOn true with tc := true }) (.spiSend 0xA5) 0))
      (fun t => t.spi == { spiOn true with dr := 0xA5, busy := true }) = true := by decide

/-- The completion leaves the flag set. -/
theorem test_spiSend_done :
    goes (exec (.spiSend 0xA5) (running (withSpi { spiOn true with dr := 0x5A, tc := true }) (.spiSend 0xA5) 1))
      (fun t => t.spi.tc && t.fg.cur == none) = true := by decide

theorem test_spiRecv :
    goes (exec .spiRecv (running (withSpi { spiOn true with dr := 0x5A, tc := true }) .spiRecv 0))
      (fun t => t.fg.ret == 0x5A && !t.spi.tc && t.spi.dr == 0x5A) = true := by decide

/-- A master without an exchange is held. -/
theorem test_spiRecv_held :
    goes (exec .spiRecv (running (withSpi (spiOn true)) .spiRecv 0))
      (· == running (withSpi (spiOn true)) .spiRecv 0) = true := by decide

theorem test_spiSends_next :
    goes (exec (.spiSends 0x100)
        ((withSpi { spiOn true with tc := true }).setCur (some { record (.spiSends 0x100) 3 with sp := 0x100, tmp := 0x48 })))
      (fun t => t.fg.cur == some { record (.spiSends 0x100) 1 with sp := 0x101, tmp := 0x48 }) = true := by decide

theorem test_spiRecvs_end :
    goes (exec (.spiRecvs 0x200)
        ({ withSpi (spiOn false) with mem := [(0x202, 9)] }.setCur (some { record (.spiRecvs 0x200) 2 with sp := 0x202 })))
      (fun t => t.mem == [] && t.fg.cur == none) = true := by decide

theorem test_spiRecvs_interrupt_mode :
    refuses (exec (.spiRecvs 0x200) (running (withSpi { spiOn false with ie := true }) (.spiRecvs 0x200) 0))
      .notAvailableInInterruptMode = true := by decide

theorem test_spiSetcb :
    goes (exec (.spiSetcb false true 0x40) (running State.reset (.spiSetcb false true 0x40) 0))
      (fun t => t.spi.cb == some 0x40) = true := by decide

theorem test_spx_master :
    (spxMasterStep (.byte 0x5A) (withSpi { spiOn true with dr := 0xA5, busy := true })).spi =
      { spiOn true with dr := 0x5A, tc := true, wire := [⟨.master, 0xA5, 0x5A⟩] } := by decide

/-- The slave overwrite. -/
theorem test_spx_slave :
    (spxSlaveStep 0x38 (withSpi { spiOn false with dr := 0x37, tc := true })).spi =
      { spiOn false with dr := 0x38, tc := true, wire := [⟨.slave, 0x37, 0x38⟩] } := by decide

/-! ### I2C (table 2.6) -/

theorem test_i2cInit :
    goes (exec (.i2cInit 1 1) (running (withI2c (i2cOn .fail true 0x21)) (.i2cInit 1 1) 0))
      (fun t => t.i2c.bus == [.reinit] && t.i2c.ph == .idle && !t.i2c.owned && t.i2c.brr == 8 && t.i2c.ps == 1) = true := by
  decide

theorem test_i2cStart_before_init :
    refuses (exec .i2cStart (running State.reset .i2cStart 0)) .notInitialised = true := by decide

/-- A first start: the code 0x08 over the prescaler 1. -/
theorem test_i2b_start :
    (i2bStep (.ok 0) (withI2c { i2cOn .idle false 0xF9 with op := some .start })).i2c =
      { i2cOn .addr true 0x09 with done := true, bus := [.start] } := by decide

theorem test_i2b_repeated_start :
    (i2bStep (.ok 0) (withI2c { i2cOn .mt true 0x29 with op := some .start })).i2c =
      { i2cOn .addr true 0x11 with done := true, bus := [.repStart] } := by decide

/-- Read intent. -/
theorem test_i2b_address :
    (i2bStep (.ok 0) (withI2c { i2cOn .addr true 0x09 with op := some .write, dr := 0xA5 })).i2c =
      { i2cOn .mr true 0x41 with dr := 0xA5, done := true, bus := [.addr 0xA5 .a] } := by decide

theorem test_i2b_nack :
    (i2bStep .nack (withI2c { i2cOn .mt true 0x19 with op := some .write, dr := 0x5A })).i2c.bus = [.data 0x5A .n] ∧
      (i2bStep .nack (withI2c { i2cOn .mt true 0x19 with op := some .write, dr := 0x5A })).i2c.ph = .fail := by decide

theorem test_i2b_read :
    (i2bStep (.ok 0x22) (withI2c { i2cOn .mr true 0x51 with op := some .readNack })).i2c =
      { i2cOn .mrEnd true 0x59 with dr := 0x22, done := true, bus := [.read 0x22 .n] } := by decide

theorem test_i2cWrite_out_of_sequence :
    refuses (exec (.i2cWrite 0) (running (withI2c (i2cOn .fail true 0x21)) (.i2cWrite 0) 0)) .outOfSequence = true := by
  decide

theorem test_i2cWrite :
    goes (exec (.i2cWrite 0xA4) (running (withI2c { i2cOn .addr true 0x09 with done := true }) (.i2cWrite 0xA4) 0))
      (fun t => t.i2c == { i2cOn .addr true 0x09 with dr := 0xA4, op := some .write }) = true := by decide

theorem test_i2cRdack :
    goes (exec .i2cRdack (running (withI2c { i2cOn .mr true 0x51 with dr := 0x11, done := true }) .i2cRdack 1))
      (fun t => t.fg.ret == 0x11 && t.fg.cur == none) = true := by decide

theorem test_i2cRdack_after_last :
    refuses (exec .i2cRdack (running (withI2c (i2cOn .mrEnd true 0x59)) .i2cRdack 0)) .outOfSequence = true := by decide

theorem test_i2cRdnack :
    goes (exec .i2cRdnack (running (withI2c { i2cOn .mr true 0x51 with done := true }) .i2cRdnack 0))
      (fun t => t.i2c.op == some .readNack && !t.i2c.done) = true := by decide

/-- The done flag is kept. -/
theorem test_i2cStop :
    goes (exec .i2cStop (running (withI2c { i2cOn .mt true 0x29 with done := true }) .i2cStop 0))
      (fun t => t.i2c.bus == [.stop] && t.i2c.ph == .idle && !t.i2c.owned && t.i2c.done) = true := by decide

theorem test_i2cStop_not_owned :
    goes (exec .i2cStop (running (withI2c (i2cOn .fail false 0x21)) .i2cStop 0))
      (fun t => t.i2c.bus == [] && t.i2c.ph == .idle) = true := by decide

theorem test_i2cStatus :
    goes (exec .i2cStatus (running (withI2c (i2cOn .mt true 0x19)) .i2cStatus 0)) (·.fg.ret == 0x18) = true := by decide

/-! ### EEPROM (table 2.7, R254) -/

theorem test_eeInit :
    goes (exec .eeInit (running State.reset .eeInit 0))
      (fun t => t.i2c.brr == 8 && t.i2c.ps == 1 && t.i2c.gce && t.i2c.en && t.i2c.ph == .idle) = true := by decide

/-- The select byte goes out with write intent. -/
theorem test_eeWrite_select :
    goes (exec (.eeWrite 0x2A5 0x5A) (running (withI2c { i2cOn .addr true 0x09 with done := true }) (.eeWrite 0x2A5 0x5A) 2))
      (fun t => t.i2c.dr == 0xA4 && t.i2c.op == some .write) = true := by decide

/-- A mismatch ends the command with no stop. -/
theorem test_eeWrite_mismatch :
    goes (exec (.eeWrite 0x2A5 0x5A) (running (withI2c { i2cOn .addr true 0x11 with done := true }) (.eeWrite 0x2A5 0x5A) 1))
      (fun t => t.fg.res == 1 && t.fg.cur == none && t.i2c == { i2cOn .addr true 0x11 with done := true }) = true := by
  decide

/-- The byte is stored before the last check. -/
theorem test_eeRead_stores_first :
    goes (exec (.eeRead 0x2A5 0x300)
        (running (withI2c { i2cOn .fail true 0x01 with dr := 0x5A, done := true }) (.eeRead 0x2A5 0x300) 11))
      (fun t => t.mem == [(0x300, 0x5A)] && t.fg.res == 1 && t.fg.cur == none) = true := by decide

theorem test_eeRead_select :
    goes (exec (.eeRead 0x2A5 0x300) (running (withI2c { i2cOn .addr true 0x11 with done := true }) (.eeRead 0x2A5 0x300) 8))
      (fun t => t.i2c.dr == 0xA5) = true := by decide

/-- The device takes its select byte, and drives the byte at its pointer. -/
theorem test_device :
    ({ Device.fresh with dst := .sel, dptr := 0x0A5 }.onAddress false 0xA4).2 =
        { Device.fresh with dst := .addrW, dptr := 0x2A5 } ∧
      ({ Device.fresh with dst := .selR, dptr := 0x7FF, eep := [(0x7FF, 0x5A)] }.onRead 0) =
        (.ok 0x5A, { Device.fresh with dst := .selR, dptr := 0, eep := [(0x7FF, 0x5A)] }) := by decide

/-- A device in its write time with one decline left declines one select byte and no second one (R254). -/
theorem test_device_declines_once :
    (State.deviceReply { withI2c { i2cOn .addr true 0x09 with op := some .write, dr := 0xA0 } with
        params := { Params.suggested with eeBusy := true }
        dev := { Device.fresh with dst := .sel, declinesLeft := 1 } } true) = (.nack, Device.fresh) ∧
      (State.deviceReply { withI2c { i2cOn .addr true 0x09 with op := some .write, dr := 0xA0 } with
        params := { Params.suggested with eeBusy := true }
        dev := { Device.fresh with dst := .sel } } true) = (.ok 0, { Device.fresh with dst := .addrW }) := by decide

/-! ### Interrupts (table 2.8) -/

/-- A pending receiver with a registered callback. -/
def receiverPending : State := withUart { uartOn with rxm := true, rxie := true, rxc := true, cbRx := some 0x2000 }

theorem test_irq_enters :
    goes (irqStep .uartRx true receiverPending)
      (· == { receiverPending with ctx := .isr, cbLog := [(.uartRx, some 0x2000)] }) = true := by decide

theorem test_irq_empty_slot :
    goes (irqStep .uartTx true (withUart { uartOn with txm := true, txie := true }))
      (fun t => t.ctx == .fg && t.cbLog == [(.uartTx, none)]) = true := by decide

theorem test_irq_masked :
    goes (irqStep .uartRx true (inHandler receiverPending)) (· == inHandler receiverPending) = true := by decide

/-- UART_RX and SPI_TC pending: the default takes either, the order of the AVR part (GK12) only SPI_TC. -/
theorem test_irq_order :
    let both := { receiverPending with spi := { spiOn true with ie := true, tc := true } }
    let avr := { both with params := { Params.suggested with
      irqFirst := [(.spiTc, .uartRx), (.uartRx, .uartTx), (.spiTc, .uartTx)] } }
    both.mayTake .uartRx = true ∧ both.mayTake .spiTc = true ∧ avr.mayTake .uartRx = false ∧
      avr.mayTake .spiTc = true ∧ avr.params.orderWf = true := by decide

/-- A source that would be taken before itself. -/
theorem test_irq_order_cycle :
    ({ Params.suggested with irqFirst := [(.spiTc, .uartRx), (.uartRx, .spiTc)] } : Params).orderWf = false := by decide

theorem test_irq_lifetime : refuses (irqStep .uartRx false receiverPending) .callbackLifetime = true := by decide

theorem test_iret :
    goes (exec .iret (running (inHandler receiverPending) .iret 0)) (fun t => t.ctx == .fg && t.isr.cur == none) = true := by
  decide

theorem test_iret_outside : refuses (exec .iret (running State.reset .iret 0)) .iretOutsideHandler = true := by decide

/-- A handler, with `UART_RECVS` suspended in the foreground. -/
def suspended : State :=
  inHandler { withUart { uartOn with txm := true, txie := true } with
    fg := { Bank.reset with cur := some { record (.uartRecvs 0x200) 1 with sn := 3, si := 3, sp := 0x200 } } }

theorem test_overlap : refuses (hostIssue .isr (encode .uartRecv) suspended) .overlap = true := by decide

theorem test_no_overlap_across_directions :
    goes (hostIssue .isr (encode (.uartSend 0x55)) suspended) (·.isr.cur == some (record (.uartSend 0x55) 0)) = true := by
  decide

/-! ### Host memory (R70 to R74) -/

theorem test_issue_while_busy : refuses (hostIssue .fg (encode .uartRecv) suspended) .issueWhileBusy = true := by decide

theorem test_buffer_race : refuses (hostWrite 0x203 1 suspended) .bufferRace = true := by decide

theorem test_buffer_end : goes (hostWrite 0x204 1 suspended) (·.mem == [(0x204, 1)]) = true := by decide

/-- A handler's store at the end of the suspended buffer. -/
theorem test_buffer_race_handler :
    refuses (exec (.eeRead 0 0x203)
      (running { suspended with i2c := { i2cOn .mrEnd true 0x59 with done := true } } (.eeRead 0 0x203) 11)) .bufferRace =
        true := by decide

/-- Writing the blank byte removes the entry; a write in between keeps the order. -/
theorem test_memory_canonical :
    Memory.write 0 [(1, 5), (4, 6)] 4 0 = [(1, 5)] ∧ Memory.write 0 [(1, 5), (4, 6)] 3 7 = [(1, 5), (3, 7), (4, 6)] ∧
      Memory.read 0 [(1, 5), (4, 6)] 2 = 0 := by decide

/-! ### Witnesses: for each statement with hypotheses, states and operands that meet them, clause by clause -/

/-- The state with these turns to come. -/
def upcoming (s : State) (l : List Turn) : State := { s with turns := l }

/-- The record with a string pointer, a count and a scratch byte. -/
def recordAt (i : Instr) (n sp : Nat) (sn tmp : Byte) : InFlight := { record i n with sp := sp, sn := sn, tmp := tmp }

/-- The state with this record in flight. -/
def carrying (s : State) (k : InFlight) : State := s.setCur (some k)

theorem witness_EncodeOfDecode : decode 0x1100000000000041 = .ok (.uartSend 0x41) := rfl

theorem witness_ReservedEncodingsAreIllegal :
    (∀ op ∈ ([0, 0x02, 0x0F, 0x16, 0x1F, 0x27, 0x2F, 0x37, 0x3F, 0x43, 0xFF] : List Nat),
      (opcodeOf (BitVec.ofNat 64 (op * 2 ^ 56))).toNat = op ∧
        (op = 0 ∨ (0x02 ≤ op ∧ op ≤ 0x0F) ∨ (0x16 ≤ op ∧ op ≤ 0x1F) ∨ (0x27 ≤ op ∧ op ≤ 0x2F) ∨
          (0x37 ≤ op ∧ op ≤ 0x3F) ∨ 0x43 ≤ op)) ∧
      ∃ r ∈ opcodeTable, (opcodeOf r.pattern).toNat = (opcodeOf 0x1100000000000141).toNat ∧
        (0x1100000000000141 : Word) &&& r.mask ≠ r.pattern := by decide +kernel

theorem witness_StepRunsTheCommandInFlight :
    (upcoming (running suspended (.uartSend 0x55) 0) [.cmd, .utx]).cur = some (record (.uartSend 0x55) 0) ∧
      (record (.uartSend 0x55) 0).instr = some (.uartSend 0x55) ∧
      Instr.wellFormed (.uartInit 1 0 2 0 true true true) = true := by decide +kernel

theorem witness_IssueDiscipline :
    (legalCommand (encode .uartRecv) ≠ none ∧ ¬(suspended.ctx = .fg ∧ (suspended.bank .fg).cur = none)) ∧
      (suspended.ctx = .isr ∧ (suspended.bank .isr).cur = none ∧ legalCommand 0 = none) ∧
      goes (step (upcoming suspended [.issue .isr (encode (.uartSend 0x55))])) (fun _ => true) = true := by decide +kernel

theorem witness_UartAdmission :
    (∀ i ∈ [Instr.uartInit 9600 0 0 3 false false false, .uartSend 1, .uartSends 0xFFFF, .uartRecv, .uartRecvs 0,
        .uartSetcb true true 0],
      ∀ s ∈ [State.reset, withUart uartOn, withUart { uartOn with txm := true, rxm := true }, inHandler State.reset],
        s.cur = none ∧ i.wellFormed = true ∧ s.noOverlap i) ∧
      suspended.cur = none ∧ suspended.noOverlap (.uartSend 0x55) := by decide +kernel

theorem witness_SpiAdmission :
    ∀ i ∈ [Instr.spiInitm, .spiInits, .spiSend 1, .spiSends 0xFFFF, .spiRecv, .spiRecvs 0, .spiSetcb false true 0],
      ∀ s ∈ [State.reset, withSpi (spiOn true), withSpi { spiOn false with ie := true }, suspended],
        s.cur = none ∧ i.wellFormed = true ∧ s.noOverlap i := by decide +kernel

theorem witness_OverlapIsRefused :
    (∀ s ∈ [State.reset, inHandler State.reset, suspended],
      s.cur = none ∧ Instr.wellFormed (.i2cWrite 0) = true ∧ modeRefusal s.ctx s (.i2cWrite 0) = none) ∧
      (modeRefusal suspended.ctx suspended .uartRecv = none ∧ (rowOf .uartRecv).mnemonic ∈ transferClassMembers .uartRx ∧
        (rowOf (.uartRecvs 0x200)).mnemonic ∈ transferClassMembers .uartRx) ∧
      suspended.fg.cur.bind InFlight.instr = some (.uartRecvs 0x200) := by decide +kernel

/-- The I2C and EEPROM commands in the foreground, in a handler with nothing suspended, and in a handler beside a suspended
command of another class and of their own. -/
theorem witness_OverlapIsRefused_i2c :
    (∀ i ∈ [Instr.i2cInit 0 0, .i2cStart, .i2cWrite 0, .i2cRdack, .i2cRdnack, .i2cStop, .i2cStatus, .eeInit,
        .eeWrite 0x7FF 0xFF, .eeRead 0 0xFFFF],
      i.wellFormed = true ∧ (rowOf i).mnemonic ∈ transferClassMembers .i2c) ∧
      (∀ s ∈ [State.reset, inHandler State.reset, suspended, inHandler (running State.reset .i2cStart 1)], s.cur = none) ∧
      (inHandler State.reset).fg.cur = none ∧
      (inHandler (running State.reset .i2cStart 1)).fg.cur.bind InFlight.instr = some .i2cStart := by decide +kernel

theorem witness_OverlapIsRefused_apart (c : TransferClass) :
    ¬((rowOf (.uartSend 0x55)).mnemonic ∈ transferClassMembers c ∧
      (rowOf (.uartRecvs 0x200)).mnemonic ∈ transferClassMembers c) := by cases c <;> decide

theorem witness_DispatchReadsTheSlot :
    (receiverPending.ctx = .fg ∧ receiverPending.uart.rxie = true ∧ receiverPending.uart.rxc = true ∧
        receiverPending.uart.cbRx ≠ none) ∧
      ((withUart { uartOn with txm := true, txie := true }).uart.txie = true ∧ uartOn.txe = true ∧ uartOn.cbTx = none) ∧
      (({ spiOn true with ie := true, tc := true, cb := some 0 } : Spi).cb ≠ none) ∧
      receiverPending.params.irqFirst = [] ∧ receiverPending.params.orderWf = true := by decide +kernel

theorem witness_DispatchIsMasked :
    (inHandler receiverPending).ctx = .isr ∧ receiverPending.uart.txie = false ∧
      (withUart uartOn).uart.rxc = false ∧ State.reset.spi.tc = false ∧
      ∀ s ∈ [{ receiverPending with
          spi := { spiOn true with ie := true, tc := true }
          params := { Params.suggested with irqFirst := [(.spiTc, .uartRx)] } }],
        s.spi.ie = true ∧ s.spi.tc = true ∧ (IrqSource.spiTc, IrqSource.uartRx) ∈ s.params.irqFirst := by decide +kernel

theorem witness_IretReturns :
    ((running suspended .iret 0).at .iret 0 (record .iret 0) ∧ suspended.ctx = .isr) ∧
      ((running State.reset .iret 0).at .iret 0 (record .iret 0) ∧ State.reset.ctx = .fg) ∧ suspended.cur = none := by decide +kernel

theorem witness_ForegroundIsSuspended :
    suspended.ctx = .isr ∧ (upcoming (running suspended (.uartSend 0x55) 0) [.cmd]).turns.head? ≠ some .powerOn ∧
      goes (step (upcoming (running suspended (.uartSend 0x55) 0) [.cmd])) (fun _ => true) = true := by decide +kernel

/-- The quotients 1, 0x10000, 0x10001 and 0, and a unit initialised before. -/
theorem witness_UartInitConfigures :
    (∀ r ∈ ([(8000000, 1000000, 1), (8 * 0x10000, 1, 0x10000), (8 * 0x10001, 1, 0x10001), (8000000, 2000001, 0)] :
        List (Nat × BitVec 32 × Nat)), r.2.1 ≠ 0 ∧ r.2.2 = (r.1 + 4 * r.2.1.toNat) / (8 * r.2.1.toNat)) ∧
      (∀ i ∈ [Instr.uartInit 0 0 2 0 true true true, .uartInit 1 0 3 0 true true true],
        (running State.reset i 0).at i 0 (record i 0) ∧ State.reset.noOverlap i) ∧
      (∀ s ∈ [State.reset, State.resetWith { Params.suggested with fClk := 8 * 0x10000 }, withUart uartOn,
          inHandler State.reset],
        (running s (.uartInit 1 0 2 0 true true true) 0).at (.uartInit 1 0 2 0 true true true) 0
            (record (.uartInit 1 0 2 0 true true true) 0) ∧
          s.noOverlap (.uartInit 1 0 2 0 true true true)) := by decide +kernel

theorem witness_BaudDivisorIsNearest : 0 < 1 := by decide +kernel

theorem witness_UartSendLoads :
    ∀ s ∈ [withUart uartOn, withUart { uartOn with txe := false }, suspended],
      (running s (.uartSend 0xFF) 0).at (.uartSend 0xFF) 0 (record (.uartSend 0xFF) 0) ∧ s.sendAdmitted ∧
        s.noOverlap (.uartSend 0xFF) := by decide +kernel

theorem witness_UartRecvReturns :
    ∀ s ∈ [withUart uartOn, withUart { uartOn with rxc := true }, withUart { uartOn with rxc := true, pe := true },
        withUart { uartOn with rxc := true, fe := true }, inHandler (withUart { uartOn with rxm := true, rxc := true })],
      (running s .uartRecv 0).at .uartRecv 0 (record .uartRecv 0) ∧ s.recvAdmitted ∧ s.noOverlap .uartRecv ∧
        (s.uart.lineError = true ↔ (s.uart.par ≠ 0 ∧ s.uart.pe = true) ∨ s.uart.fe = true) := by decide +kernel

theorem witness_UartSendsMicroSteps :
    ((running suspended (.uartSends 0xFFFF) 0).at (.uartSends 0xFFFF) 0 (record (.uartSends 0xFFFF) 0) ∧
        suspended.sendAdmitted ∧ suspended.noOverlap (.uartSends 0xFFFF)) ∧
      (∀ sp ∈ [0xFFFF, 0x10000], (carrying (withUart uartOn) (recordAt (.uartSends 0) 1 sp 0 0)).at (.uartSends 0) 1
        (recordAt (.uartSends 0) 1 sp 0 0)) ∧
      ∀ s ∈ [withUart uartOn, withUart { uartOn with txe := false }], ∀ b ∈ ([0, 0x41] : List Byte),
        (carrying s (recordAt (.uartSends 0) 2 0xFFFF 0 b)).at (.uartSends 0) 2 (recordAt (.uartSends 0) 2 0xFFFF 0 b) := by decide +kernel

/-- Memory with a byte in it, an unread byte, and a handler beside a suspended buffer. -/
theorem witness_UartRecvsMicroSteps :
    (∀ s ∈ [withUart { uartOn with rxc := true }, withUart { uartOn with rxc := true, fe := true }, withUart uartOn],
      (running s (.uartRecvs 0xFFFF) 0).at (.uartRecvs 0xFFFF) 0 (record (.uartRecvs 0xFFFF) 0) ∧ s.recvAdmitted ∧
        s.noOverlap (.uartRecvs 0xFFFF) ∧ Memory.wf Config.memBlank Config.memSize s.mem = true ∧
        (s.uart.lineError = true ↔ (s.uart.par ≠ 0 ∧ s.uart.pe = true) ∨ s.uart.fe = true) ∧
        ∀ n ∈ [1, 2], ∀ sp ∈ [0xFFFF, 0x10000], ∀ sn ∈ ([0, 255] : List Byte),
          (carrying s (recordAt (.uartRecvs 0) n sp sn 0)).at (.uartRecvs 0) n (recordAt (.uartRecvs 0) n sp sn 0) ∧
            s.storeFree sp) ∧
      suspended.storeFree 0x1FF ∧ ¬suspended.storeFree 0x200 ∧ suspended.storeFree 0x204 := by decide +kernel

theorem witness_SetcbWritesTheSlot :
    ∀ s ∈ [State.reset, suspended], ∀ i ∈ [Instr.uartSetcb true true 5, .uartSetcb false false 0, .spiSetcb false true 5],
      (running s i 0).at i 0 (record i 0) := by decide +kernel

theorem witness_FramersTakeTheirSteps :
    (upcoming (withUart { uartOn with txe := false }) [.utx]).turns = [.utx] ∧ uartOn.txen = true ∧
      (0x1F : Byte) &&& BitVec.ofNat 8 (2 ^ 5 - 1) = 0x1F ∧
      (∀ s ∈ [State.reset, withUart uartOn, withUart { uartOn with rxc := true }],
        (upcoming s [.urx (.frame 0x1F true false)]).turns = [.urx (.frame 0x1F true false)]) := by decide +kernel

theorem witness_FramesParseBack :
    ∀ par ∈ ([0, 1, 2] : List (BitVec 2)), par ≠ 3 ∧ (0xFF : Byte) &&& BitVec.ofNat 8 (2 ^ 8 - 1) = 0xFF ∧
      (0x1F : Byte) &&& BitVec.ofNat 8 (2 ^ 5 - 1) = 0x1F := by decide +kernel

theorem witness_UartLoopbackReturnsTheByte :
    ∀ s ∈ [withUart uartOn, inHandler (withUart { uartOn with wlen := 0, txm := true, rxm := true })],
      (running s (.uartSend 0xFF) 0).at (.uartSend 0xFF) 0 (record (.uartSend 0xFF) 0) ∧ s.sendAdmitted ∧
        s.recvAdmitted ∧ s.noOverlap (.uartSend 0xFF) ∧ s.noOverlap .uartRecv ∧ s.uart.txen = true ∧
        s.uart.rxen = true ∧ s.uart.txe = true ∧ s.uart.rxc = false ∧ s.looped = s.uart.txline.length := by decide +kernel

/-- A string that ends at the top of memory. -/
def stringAtTop : State := { withUart uartOn with mem := [(0xFFFE, 0x80)] }

theorem witness_UartSendsSendsTheString :
    (running stringAtTop (.uartSends 0xFFFE) 0).at (.uartSends 0xFFFE) 0 (record (.uartSends 0xFFFE) 0) ∧
      stringAtTop.sendAdmitted ∧ stringAtTop.noOverlap (.uartSends 0xFFFE) ∧ stringAtTop.uart.txen = true ∧
      stringAtTop.uart.txe = true ∧ stringAtTop.readMem 0xFFFE = 0x80 ∧ stringAtTop.readMem 0xFFFF = 0 := by decide +kernel

/-- Payloads of no byte and of two, up to the top of memory. -/
theorem witness_UartRecvsStoresTheString :
    (∀ i ∈ [Instr.uartRecvs 0xFFFF, .uartRecvs 0xFFFD], (running stringAtTop i 0).at i 0 (record i 0)) ∧
      stringAtTop.ctx = .fg ∧ stringAtTop.recvAdmitted ∧
      Memory.wf Config.memBlank Config.memSize stringAtTop.mem = true ∧ stringAtTop.uart.rxen = true ∧
      stringAtTop.uart.rxc = false ∧ stringAtTop.uart.wlen = 3 := by decide +kernel

/-- A handler, whose buffer ends below that of the suspended SPI reception. -/
theorem witness_UartRecvsStoresTheString_handler :
    ∀ s ∈ [inHandler { withUart { uartOn with rxm := true } with
        fg := { Bank.reset with cur := some { recordAt (.spiRecvs 0x200) 1 0x200 3 0 with si := 3 } } }],
      (running s (.uartRecvs 0x1FE) 0).at (.uartRecvs 0x1FE) 0 (record (.uartRecvs 0x1FE) 0) ∧ s.recvAdmitted ∧
        s.noOverlap (.uartRecvs 0x1FE) ∧ (∀ n ∈ [0, 1], s.storeFree (0x1FE + n)) ∧ ¬s.storeFree 0x200 ∧
        s.uart.rxen = true ∧ s.uart.rxc = false := by decide +kernel

theorem witness_UartRecvsStoresTheString_frames :
    ∀ b ∈ ([0, 2, 0x1F, 0xFF] : List Byte), b &&& BitVec.ofNat 8 (2 ^ 8 - 1) = b := by decide +kernel

theorem witness_SpiInitSetsTheRole :
    ∀ i ∈ [Instr.spiInitm, .spiInits], ∀ s ∈ [State.reset, suspended, withSpi (spiOn true)],
      (running s i 0).at i 0 (record i 0) ∧ s.noOverlap i := by decide +kernel

theorem witness_SpiSendExchanges :
    ∀ s ∈ [withSpi (spiOn true), withSpi { spiOn false with tc := true }, inHandler (withSpi (spiOn false))],
      s.noOverlap (.spiSend 0xFF) ∧ s.spi.inited = true ∧
        ∀ n ∈ [0, 1], (running s (.spiSend 0xFF) n).at (.spiSend 0xFF) n (record (.spiSend 0xFF) n) := by decide +kernel

theorem witness_SpiRecvReturns :
    ∀ s ∈ [withSpi (spiOn true), withSpi { spiOn false with tc := true },
        inHandler (withSpi { spiOn false with ie := true, tc := true })],
      (running s .spiRecv 0).at .spiRecv 0 (record .spiRecv 0) ∧ s.noOverlap .spiRecv ∧ s.spi.inited = true ∧
        (s.ctx = .fg → s.spi.ie = false) := by decide +kernel

theorem witness_SpiSendsMicroSteps :
    ∀ s ∈ [withSpi (spiOn true), withSpi { spiOn false with tc := true }],
      (running s (.spiSends 0xFFFF) 0).at (.spiSends 0xFFFF) 0 (record (.spiSends 0xFFFF) 0) ∧
        s.noOverlap (.spiSends 0xFFFF) ∧ s.spi.inited = true ∧
        ∀ n ∈ [1, 2, 3], ∀ sp ∈ [0xFFFF, 0x10000], ∀ b ∈ ([0, 0x41] : List Byte),
          (carrying s (recordAt (.spiSends 0) n sp 0 b)).at (.spiSends 0) n (recordAt (.spiSends 0) n sp 0 b) := by decide +kernel

theorem witness_SpiRecvsMicroSteps :
    ∀ s ∈ [withSpi (spiOn true), withSpi { spiOn false with tc := true }, withSpi { spiOn false with ie := true }],
      (running s (.spiRecvs 0xFFFF) 0).at (.spiRecvs 0xFFFF) 0 (record (.spiRecvs 0xFFFF) 0) ∧
        s.noOverlap (.spiRecvs 0xFFFF) ∧ s.spi.inited = true ∧ Memory.wf Config.memBlank Config.memSize s.mem = true ∧
        ∀ n ∈ [1, 2], ∀ sp ∈ [0xFFFF, 0x10000], ∀ sn ∈ ([0, 255] : List Byte),
          (carrying s (recordAt (.spiRecvs 0) n sp sn 0)).at (.spiRecvs 0) n (recordAt (.spiRecvs 0) n sp sn 0) ∧
            s.storeFree sp := by decide +kernel

theorem witness_ShiftEngineExchanges :
    (∃ s : State, s.turns = [.spxMaster (.byte 0xFF)] ∧ s.spi.en = true ∧ s.spi.mstr = true ∧ s.spi.busy = true) ∧
      ∃ s : State, s.turns = [.spxSlave 0] ∧ s.spi.en = true ∧ s.spi.mstr = false ∧ s.spi.tc = true :=
  ⟨⟨upcoming (withSpi { spiOn true with busy := true }) [.spxMaster (.byte 0xFF)], rfl, rfl, rfl, rfl⟩,
    ⟨upcoming (withSpi { spiOn false with tc := true }) [.spxSlave 0], rfl, rfl, rfl, rfl⟩⟩

theorem witness_SpiLoopbackReturnsTheByte :
    ∀ s ∈ [withSpi (spiOn true)],
    (running s (.spiSend 0xFF) 0).at (.spiSend 0xFF) 0 (record (.spiSend 0xFF) 0) ∧ s.noOverlap (.spiSend 0xFF) ∧
      s.noOverlap .spiRecv ∧ s.spi.inited = true ∧ s.spi.en = true ∧ s.spi.mstr = true ∧ s.spi.ie = false := by decide +kernel

theorem witness_I2cInitConfigures :
    ∀ s ∈ [State.reset, withI2c (i2cOn .fail true 0x21), suspended],
      ∀ i ∈ [Instr.i2cInit 0 0x7F, .i2cInit 1 0, .i2cInit 2 1, .i2cInit 3 1, .eeInit],
        (running s i 0).at i 0 (record i 0) ∧ s.noOverlap i := by decide +kernel

theorem witness_I2cPrimitivesIssue :
    ∀ r ∈ [(Instr.i2cStart, I2cPhase.idle), (.i2cStart, .fail), (.i2cWrite 0xA4, .addr), (.i2cWrite 0, .mt),
        (.i2cRdack, .mr), (.i2cRdnack, .mr)],
      ∀ s ∈ [withI2c (i2cOn r.2 true 0x09)],
      (running s r.1 0).at r.1 0 (record r.1 0) ∧ s.noOverlap r.1 ∧ s.i2c.en = true ∧ s.i2c.ph = r.2 := by decide +kernel

/-- The unit before init, at rest as reset leaves it, and in the phases that no run before init reaches. -/
theorem witness_I2cPrimitivesIssue_before_init :
    (∀ i ∈ [Instr.i2cStart, .i2cWrite 0xA4, .i2cRdack, .i2cRdnack],
      (running State.reset i 0).at i 0 (record i 0) ∧ State.reset.noOverlap i) ∧
      (State.reset.i2c.en = false ∧ State.reset.i2c.ph = .idle) ∧
      ∀ r ∈ [(Instr.i2cWrite 0xA4, I2cPhase.addr), (.i2cWrite 0, .mt), (.i2cRdack, .mr), (.i2cRdnack, .mr)],
        ∀ s ∈ [withI2c { i2cOn r.2 true 0x09 with en := false }],
          (running s r.1 0).at r.1 0 (record r.1 0) ∧ s.noOverlap r.1 ∧ s.i2c.en = false ∧ s.i2c.ph = r.2 := by
  decide +kernel

theorem witness_I2cPrimitivesWait :
    ∀ i ∈ [Instr.i2cStart, .i2cWrite 0xA4, .i2cRdack, .i2cRdnack],
      ∀ s ∈ [withI2c (i2cOn .mr true 0x51), withI2c { i2cOn .mr true 0x51 with done := true }],
        (running s i 1).at i 1 (record i 1) := by decide +kernel

theorem witness_I2cStopReleases :
    ∀ s ∈ [State.reset, withI2c (i2cOn .mt true 0x29), withI2c (i2cOn .fail false 0x01),
        { withI2c (i2cOn .mt true 0x29) with dev := { Device.fresh with dst := .dataW, stored := true } }],
      (running s .i2cStop 0).at .i2cStop 0 (record .i2cStop 0) ∧ s.noOverlap .i2cStop := by decide +kernel

theorem witness_I2cStatusMasks :
    ∀ s ∈ [State.reset, withI2c (i2cOn .mt true 0x1B), suspended],
      (running s .i2cStatus 0).at .i2cStatus 0 (record .i2cStatus 0) ∧ s.noOverlap .i2cStatus := by decide +kernel

theorem witness_OutOfSequenceIsRefused :
    ∀ ph ∈ [I2cPhase.idle, .addr, .mt, .mr, .mrEnd, .fail],
      ∀ i ∈ [Instr.i2cWrite 0, .i2cRdack, .i2cRdnack, .i2cStart, .i2cStop, .i2cStatus, .i2cInit 2 0],
        ∀ s ∈ [withI2c (i2cOn ph true 0x09)],
        (running s i 0).at i 0 (record i 0) ∧ s.noOverlap i ∧ s.i2c.en = true := by decide +kernel

/-- An operation pending in a phase, and the bus's answer to come. -/
def pendingOp (x : I2cOp) (ph : I2cPhase) (owned : Bool) (dr : Byte) (r : BusReply) : State :=
  upcoming (withI2c { i2cOn ph owned 0x09 with op := some x, dr := dr }) [.i2b r]

theorem witness_BusOperationSucceeds :
    ∀ s ∈ [pendingOp .start .idle false 0 (.ok 7), pendingOp .start .mt true 0 (.ok 7),
        pendingOp .write .addr true 0xA4 (.ok 7), pendingOp .write .addr true 0xA5 (.ok 7),
        pendingOp .write .mt true 0x5A (.ok 7), pendingOp .readAck .mr true 0 (.ok 7),
        pendingOp .readNack .mr true 0 (.ok 7)],
      s.turns = [.i2b (.ok 7)] ∧ (s.i2c.op = some .start ∨ (s.i2c.op = some .write ∧ (s.i2c.ph = .addr ∨ s.i2c.ph = .mt)) ∨
        ((s.i2c.op = some .readAck ∨ s.i2c.op = some .readNack) ∧ s.i2c.ph = .mr)) := by decide +kernel

theorem witness_BusOperationFails :
    ∀ r ∈ [(I2cOp.start, I2cPhase.idle, BusReply.fault), (.start, .mt, .fault), (.write, .addr, .nack), (.write, .addr, .fault),
        (.write, .mt, .nack), (.write, .mt, .fault), (.readAck, .mr, .fault), (.readNack, .mr, .fault)],
      ∀ s ∈ [pendingOp r.1 r.2.1 (r.2.1 != .idle) 0xA5 r.2.2],
      s.turns = [.i2b r.2.2] ∧ s.i2c.op = some r.1 ∧ s.i2c.ph = r.2.1 ∧ s.params.wf = true := by decide +kernel

/-- Units of every kind: not enabled, an operation not ended, ended with each code, failed. -/
def eepromUnits : List State :=
  [State.reset, withI2c (i2cOn .addr true 0x08), withI2c { i2cOn .mt true 0x18 with done := true },
    withI2c { i2cOn .mr true 0x58 with done := true }, withI2c (i2cOn .fail true 0x20)]

theorem witness_EeWriteMicroSteps :
    ∀ s ∈ eepromUnits, s.noOverlap (.eeWrite 0x7FF 0xFF) ∧
      ∀ n ∈ List.range 9,
        (running s (.eeWrite 0x7FF 0xFF) n).at (.eeWrite 0x7FF 0xFF) n (record (.eeWrite 0x7FF 0xFF) n) := by decide +kernel

theorem witness_EeReadMicroSteps :
    ∀ s ∈ eepromUnits, s.noOverlap (.eeRead 0x7FF 0xFFFF) ∧ s.storeFree 0xFFFF ∧
      Memory.wf Config.memBlank Config.memSize s.mem = true ∧
      ∀ n ∈ List.range 13,
        (running s (.eeRead 0x7FF 0xFFFF) n).at (.eeRead 0x7FF 0xFFFF) n (record (.eeRead 0x7FF 0xFFFF) n) := by
  decide +kernel

theorem witness_EepromReadsBackWhatWasWritten :
    ∀ s ∈ [{ withI2c (i2cOn .idle false 0xF9) with dev := { Device.fresh with eep := [(0x7FF, 0)] } }],
    (running s (.eeWrite 0x7FF 0xFF) 0).at (.eeWrite 0x7FF 0xFF) 0 (record (.eeWrite 0x7FF 0xFF) 0) ∧
      s.noOverlap (.eeWrite 0x7FF 0xFF) ∧ s.storeFree 0xFFFF ∧ s.params.wf = true ∧
      Memory.wf Config.memBlank Config.memSize s.mem = true ∧ Memory.wf Config.eeBlank Config.eeSize s.dev.eep = true ∧
      s.params.eeBusy = false ∧ s.i2c.en = true ∧ s.i2c.ph = .idle ∧ s.i2c.owned = false := by decide +kernel

theorem witness_EepromStopsAtAStartMismatch :
    ∀ s ∈ [withI2c (i2cOn .idle false 0xF9), withI2c (i2cOn .fail true 0x21)],
      ∀ r ∈ [(Instr.eeWrite 0 0, 0), (.eeRead 0x7FF 0xFFFF, 0), (.eeRead 0x7FF 0xFFFF, 6)],
        (running s r.1 r.2).at r.1 r.2 (record r.1 r.2) ∧ s.noOverlap r.1 ∧ s.params.wf = true ∧ s.i2c.en = true := by
  decide +kernel

theorem witness_MemoryReadsBack :
    Memory.wf Config.memBlank Config.memSize [(0, 1), (0xFFFF, 2)] = true ∧ 0xFFFF ≤ 0xFFFF := by decide +kernel

/-- A write of HOST, and the store of each of the three commands, change a byte; so does a data byte in the device. -/
theorem witness_MemoryWriters :
    goes (step (upcoming State.reset [.hostWrite 0xFFFF 1])) (·.readMem 0xFFFF != 0) = true ∧
      goes (step (upcoming (carrying (withUart { uartOn with rxd := 5, rxc := true }) (recordAt (.uartRecvs 0) 1 0xFFFF 1 0))
        [.cmd])) (·.readMem 0xFFFF != 0) = true ∧
      goes (step (upcoming (carrying (withSpi { spiOn false with dr := 5, tc := true }) (recordAt (.spiRecvs 0) 1 0 1 0))
        [.cmd])) (·.readMem 0 != 0) = true ∧
      goes (step (upcoming (running (withI2c { i2cOn .mrEnd true 0x59 with dr := 5, done := true }) (.eeRead 0 9) 11)
        [.cmd])) (·.readMem 9 != 0) = true ∧
      goes (step (upcoming { withI2c { i2cOn .mt true 0x29 with op := some .write, dr := 0x5A } with
          dev := { Device.fresh with dst := .dataW, dptr := 0x7FF } } [.i2bDevice false]))
        (fun t => Memory.read Config.eeBlank t.dev.eep 0x7FF == 0x5A) = true := by decide +kernel

theorem witness_StoringCommandsFrame :
    goes (exec (.uartRecvs 0) (carrying (withUart { uartOn with rxd := 5, rxc := true }) (recordAt (.uartRecvs 0) 1 0xFFFF 1 0)))
        (·.mem == [(0xFFFF, 5)]) = true ∧
      goes (exec (.spiRecvs 0) (carrying (withSpi { spiOn false with dr := 5, tc := true }) (recordAt (.spiRecvs 0) 1 0 1 0)))
        (·.mem == [(0, 5)]) = true ∧
      goes (exec (.eeRead 0 9) (running (withI2c { i2cOn .mrEnd true 0x59 with dr := 5, done := true }) (.eeRead 0 9) 11))
        (·.mem == [(9, 5)]) = true := by decide +kernel

/-- A string sent from 0x100 to its terminator at 0x102, suspended, with the I2C unit at the end of a read. -/
def sending (i : Instr) : State :=
  inHandler (running { withUart { uartOn with rxm := true, rxc := true } with
    spi := { spiOn false with tc := true }, i2c := { i2cOn .mrEnd true 0x59 with done := true },
    mem := [(0x100, 1), (0x101, 2)] } i 2)

theorem sending_nonzero (i : Instr) (b : Nat) (h : 0x100 ≤ b) (hb : b < 0x102) : (sending i).readMem b ≠ 0 := by
  obtain rfl | rfl : b = 0x100 ∨ b = 0x101 := by omega
  · exact show (1 : Byte) ≠ 0 by decide
  · exact show (2 : Byte) ≠ 0 by decide

/-- Both ends of the buffer of a sent string. -/
theorem sending_claims (a : Nat) (h : 0x100 ≤ a) (ha : a ≤ 0x102) :
    (record (.spiSends 0x100) 2).claims (sending (.spiSends 0x100)) a ∧
      (record (.uartSends 0x100) 2).claims (sending (.uartSends 0x100)) a :=
  ⟨.inr ⟨0x100, .inr rfl, h, fun b hb hl => sending_nonzero _ b hb (by omega)⟩,
    .inr ⟨0x100, .inl rfl, h, fun b hb hl => sending_nonzero _ b hb (by omega)⟩⟩

/-- The buffer of a received string at its last byte: 256 bytes before its prefix is read, and 4 after a prefix of 3. -/
theorem witness_BufferRaceIsRefused_received :
    (record (.uartRecvs 0x200) 0).claims (running (withUart uartOn) (.uartRecvs 0x200) 0) 0x2FF ∧
      { recordAt (.uartRecvs 0x200) 1 0x200 3 0 with si := 3 }.claims suspended 0x203 :=
  ⟨.inl ⟨0x200, .inl rfl, by decide, by decide⟩, .inl ⟨0x200, .inl rfl, by decide, by decide⟩⟩

/-- A write of HOST that no command claims. -/
theorem witness_BufferRaceIsRefused_free :
    (upcoming State.reset [.hostWrite 0xFFFF 1]).turns = [.hostWrite 0xFFFF 1] ∧
      ∀ c k, (State.reset.bank c).cur = some k → ¬k.claims State.reset 0xFFFF :=
  ⟨rfl, fun c k h => by cases c <;> cases h⟩

/-- A handler's stores into the buffer of a suspended string command, at both ends of it: a byte and the terminator of a
received string, and the byte of an EEPROM read. -/
theorem witness_BufferRaceIsRefused_handler :
    (∀ i ∈ [Instr.spiSends 0x100, .uartSends 0x100], (sending i).ctx = .isr ∧ (sending i).fg.cur = some (record i 2)) ∧
      (∀ sp ∈ [0x100, 0x102], ∀ n ∈ [1, 2],
        ((carrying (sending (.spiSends 0x100)) (recordAt (.uartRecvs 0xF0) n sp 1 0)).at (.uartRecvs 0xF0) n
            (recordAt (.uartRecvs 0xF0) n sp 1 0)) ∧
          (carrying (sending (.uartSends 0x100)) (recordAt (.spiRecvs 0xF0) n sp 1 0)).at (.spiRecvs 0xF0) n
            (recordAt (.spiRecvs 0xF0) n sp 1 0)) ∧
      (sending (.spiSends 0x100)).uart.rxc = true ∧ (sending (.uartSends 0x100)).spi.tc = true ∧
      ∀ s ∈ [sending (.spiSends 0x100)],
        (running s (.eeRead 0 0x102) 11).at (.eeRead 0 0x102) 11 (record (.eeRead 0 0x102) 11) ∧ s.i2c.done = true := by
  decide +kernel

/-- A master's receive command with no exchange under way, held. -/
def hanging : State := running { withSpi (spiOn true) with uart := uartOn } .spiRecv 0

/-- A start handed to the bus, and the command that waits for it. -/
def waiting : State := running { withI2c { i2cOn .idle false 0xF9 with op := some .start } with uart := uartOn } .i2cStart 1

theorem uartOn_inv : uartOn.inv 8000000 := by constructor <;> decide

theorem spiOn_inv : (spiOn true).inv Params.suggested := by
  constructor <;> first | decide | exact fun _ => rfl

theorem spi_reset_inv : Spi.reset.inv Params.suggested := by
  constructor <;> first | decide | (intro h; cases h)

theorem i2c_reset_inv : I2c.reset.inv := by constructor <;> decide

theorem i2c_waiting_inv : waiting.i2c.inv := by constructor <;> decide

theorem witness_inv_hanging (l : List Turn) : Inv (upcoming hanging l) where
  mem := rfl
  eeprom := rfl
  handler_free := fun _ => rfl
  foreground := by intro k h; cases h; exact ⟨.spiRecv, rfl, rfl, by decide, by decide⟩
  handler := by intro k h; cases h
  uart := uartOn_inv
  spi := spiOn_inv
  i2c := i2c_reset_inv

theorem witness_inv_waiting (l : List Turn) : Inv (upcoming waiting l) where
  mem := rfl
  eeprom := rfl
  handler_free := fun _ => rfl
  foreground := by intro k h; cases h; exact ⟨.i2cStart, rfl, rfl, by decide, by decide⟩
  handler := by intro k h; cases h
  uart := uartOn_inv
  spi := spi_reset_inv
  i2c := i2c_waiting_inv

theorem witness_admitted_hanging (l : List Turn) : Admitted (upcoming hanging l) := by
  refine ⟨fun c k i h d => ?_, fun k i h => by cases h⟩
  cases c <;> cases h
  cases (show Except.ok Instr.spiRecv = Except.ok i from d)
  rfl

theorem witness_admitted_waiting (l : List Turn) : Admitted (upcoming waiting l) := by
  refine ⟨fun c k i h d => ?_, fun k i h => by cases h⟩
  cases c <;> cases h
  cases (show Except.ok Instr.i2cStart = Except.ok i from d)
  rfl

theorem witness_MasterReceiveHangs :
    let s := upcoming hanging [.cmd, .utx]
    Inv s ∧ Admitted s ∧ (s.spi.mstr = true ∧ s.spi.tc = false ∧ s.spi.busy = false) ∧
      (s.bank .fg).cur = some (record .spiRecv 0) ∧ decode (record .spiRecv 0).word = .ok .spiRecv ∧
      Turn.powerOn ∉ s.turns ∧ ∃ t, Sys2Proof.core.run 2 s = .next t :=
  ⟨witness_inv_hanging _, witness_admitted_hanging _, by decide, rfl, rfl, by decide, _, rfl⟩

theorem witness_InvariantIsKept :
    Inv (upcoming waiting [.i2b (.ok 0)]) ∧ ∃ t, step (upcoming waiting [.i2b (.ok 0)]) = .next t :=
  ⟨witness_inv_waiting _, _, rfl⟩

theorem witness_CommandsInFlightStayAdmitted :
    let s := upcoming hanging [.cmd]
    Inv s ∧ Admitted s ∧ s.cur = some (record .spiRecv 0) ∧ decode (record .spiRecv 0).word = .ok .spiRecv ∧
      ∃ t, step s = .next t ∧ t.cur = some (record .spiRecv 0) :=
  ⟨witness_inv_hanging _, witness_admitted_hanging _, rfl, rfl, _, rfl, rfl⟩

theorem witness_AdmissionAndOperationsAreKept :
    let s := upcoming waiting [.i2b (.ok 0)]
    Inv s ∧ Admitted s ∧ (∃ t, step s = .next t) ∧ Awaited s :=
  ⟨witness_inv_waiting _, witness_admitted_waiting _, ⟨_, rfl⟩, fun x h => by
    cases h; exact ⟨rfl, .fg, _, .i2cStart, rfl, rfl, rfl⟩⟩

theorem witness_ConfigurationIsImmutable :
    goes (step (upcoming hanging [.utx])) (fun _ => true) = true ∧ hanging.uart.inited = true ∧ hanging.spi.inited = true ∧
      (upcoming hanging [.utx]).turns.head? ≠ some .powerOn := by decide +kernel

theorem witness_SlotsHaveOneWriter :
    goes (step (upcoming (running State.reset (.uartSetcb false true 1) 0) [.cmd])) (·.uart.cbTx != none) = true ∧
      goes (step (upcoming (running State.reset (.uartSetcb true true 1) 0) [.cmd])) (·.uart.cbRx != none) = true ∧
      goes (step (upcoming (running State.reset (.spiSetcb false true 1) 0) [.cmd])) (·.spi.cb != none) = true := by decide +kernel

theorem witness_ResultRegisterWriters :
    goes (exec .i2cStatus (running (withI2c (i2cOn .mt true 0x19)) .i2cStatus 0)) (·.fg.ret != 0) = true ∧
      goes (exec (.eeWrite 0 0) (running (withI2c { i2cOn .addr true 0x11 with done := true }) (.eeWrite 0 0) 1))
        (·.fg.res != 0) = true := by decide +kernel

theorem witness_HistoriesOnlyGrow :
    goes (step (upcoming (withUart { uartOn with txe := false }) [.utx])) (·.uart.txline != []) = true ∧
      (upcoming State.reset [.utx]).turns.head? ≠ some .powerOn := by decide +kernel

/-- A power-on reset taken while the bus is owned and a command is in flight. -/
theorem witness_ResetState :
    goes (step (upcoming { waiting with i2c := { waiting.i2c with owned := true } } [.powerOn]))
      (fun t => t.turns == []) = true := by decide +kernel

/-- A turn of IRQ right after reset. -/
theorem test_reset_irq :
    goes (step (upcoming State.reset [.irq .uartTx true])) (· == State.reset) = true := by decide +kernel

/-- A run in which UTX takes every turn: it sends the byte at the first and is not enabled after it. -/
theorem witness_TransmitterEmptiesItself :
    let s := withUart { uartOn with txd := 0x41, txe := false }
    let states : Nat → State := fun n => if n = 0 then s else utxStep s
    InfiniteRun states (fun _ => .utx) ∧ (∀ n : Nat, (fun _ : Nat => Turn.utx) n ≠ .powerOn) ∧
      WeaklyFair utxEnabled (fun _ t _ => t = .utx) states (fun _ => .utx) ∧ (states 0).uart.inited = true ∧
      (states 0).uart.txen = true ∧ (states 0).uart.txe = false := by
  refine ⟨fun n => ?_, fun n h => (by cases h), fun n _ => ⟨n, Nat.le_refl n, rfl⟩, rfl, rfl, rfl⟩
  cases n <;> rfl

end Sys2Proof.Tests
end

section
/-!
PROOFS. The statements of the family of 00_scope.md: the baud divisor (R11), the step that runs the command in flight (R6),
and the admission of the commands in flight along a run (R10, R131, R279).
-/

namespace Sys2Proof.Proofs

open Sys2Proof Sys2Proof.Machine

/-! ### The baud divisor (R11(a), R133) -/

/-- The rounded quotient exceeds `n` exactly when the exact one is at least `n + 1/2`. -/
theorem lt_roundedQuotient_iff {fClk baud : Nat} (hb : 0 < baud) (n : Nat) :
    n < roundedQuotient fClk baud ↔ (2 * n + 1) * (8 * baud) ≤ 2 * fClk := by
  have hdiv : n < roundedQuotient fClk baud ↔ (n + 1) * (8 * baud) ≤ fClk + 4 * baud :=
    Nat.le_div_iff_mul_le (by omega)
  have hsucc : (n + 1) * (8 * baud) = n * (8 * baud) + 8 * baud := by ring
  have hdouble : (2 * n + 1) * (8 * baud) = 2 * (n * (8 * baud)) + 8 * baud := by ring
  rw [hdiv, hsucc, hdouble]
  omega

theorem baudDivisor_eq_some_iff {fClk baud : Nat} {d : BitVec 16} :
    baudDivisor fClk baud = some d ↔ roundedQuotient fClk baud = d.toNat + 1 := by
  have hd := d.isLt
  unfold baudDivisor
  generalize roundedQuotient fClk baud = q
  by_cases hq : 1 ≤ q ∧ q ≤ 0x10000
  · simp only [hq, and_self, if_true, Option.some.injEq, ← BitVec.toNat_inj, BitVec.toNat_ofNat]
    omega
  · simp only [hq, if_false, reduceCtorEq, false_iff]
    omega

theorem baudDivisor_eq_none_iff {fClk baud : Nat} :
    baudDivisor fClk baud = none ↔ ¬ 0 < roundedQuotient fClk baud ∨ 0x10000 < roundedQuotient fClk baud := by
  simp only [baudDivisor, ite_eq_right_iff, reduceCtorEq, imp_false]
  omega

/-- Settles O16: the divisor is `d` exactly when the rounded quotient exceeds `d` and not `d + 1`. -/
theorem baudDivisorIsNearest : Obligations.BaudDivisorIsNearest := by
  intro fClk baud hb
  refine ⟨fun d => ?_, ?_⟩
  · have hlow := lt_roundedQuotient_iff (fClk := fClk) hb d.toNat
    have hhigh := lt_roundedQuotient_iff (fClk := fClk) hb (d.toNat + 1)
    rw [show 2 * (d.toNat + 1) + 1 = 2 * d.toNat + 3 by omega] at hhigh
    rw [baudDivisor_eq_some_iff]
    omega
  · rw [baudDivisor_eq_none_iff, lt_roundedQuotient_iff hb, lt_roundedQuotient_iff hb]
    omega

/-! ### Every command decodes from its own word (R100 to R110) -/

/-- A word that is an opcode over a smaller operand field has that opcode (R100). -/
theorem opcodeOf_of_toNat {w : Word} {op low : Nat} (hw : w.toNat = op * 2 ^ 56 + low) (_ : op < 256)
    (_ : low < 2 ^ 56) : (opcodeOf w).toNat = op := by
  rw [opcodeOf_toNat, hw]
  omega

section Opcodes
variable {op : Nat} (h : op < 256)
include h

theorem opcodeOf_encodeZ : (opcodeOf (encodeZ op)).toNat = op :=
  opcodeOf_of_toNat (low := 0) (by rw [encodeZ_toNat h, Nat.add_zero]) h (by omega)

theorem opcodeOf_encodeB (b : Byte) : (opcodeOf (encodeB op b)).toNat = op :=
  opcodeOf_of_toNat (encodeB_toNat h b) h (by omega)

theorem opcodeOf_encodeP (ptr : Addr) : (opcodeOf (encodeP op ptr)).toNat = op :=
  opcodeOf_of_toNat (encodeP_toNat h ptr) h (by omega)

theorem opcodeOf_encodeU (baud : BitVec 32) (safe : Byte) (par wlen : BitVec 2) (txm rxm rate : Bool) :
    (opcodeOf (encodeU op baud safe par wlen txm rxm rate)).toNat = op := by
  have htxm := txm.toNat_le
  have hrxm := rxm.toNat_le
  have hrate := rate.toNat_le
  refine opcodeOf_of_toNat (low := rate.toNat * 2 ^ 46 + rxm.toNat * 2 ^ 45 + txm.toNat * 2 ^ 44 + wlen.toNat * 2 ^ 42 +
    par.toNat * 2 ^ 40 + safe.toNat * 2 ^ 32 + baud.toNat) ?_ h (by omega)
  rw [encodeU_toNat h]
  omega

theorem opcodeOf_encodeT (tier : BitVec 2) (addr7 : BitVec 7) : (opcodeOf (encodeT op tier addr7)).toNat = op :=
  opcodeOf_of_toNat ((encodeT_toNat h tier addr7).trans (Nat.add_assoc _ _ _)) h (by omega)

theorem opcodeOf_encodeC (dir reg : Bool) (fn : FnRef) : (opcodeOf (encodeC op dir reg fn)).toNat = op := by
  have hdir := dir.toNat_le
  have hreg := reg.toNat_le
  refine opcodeOf_of_toNat (low := reg.toNat * 2 ^ 17 + dir.toNat * 2 ^ 16 + fn.toNat) ?_ h (by omega)
  rw [encodeC_toNat h]
  omega

theorem opcodeOf_encodeW (ea : EepromAddr) (data : Byte) : (opcodeOf (encodeW op ea data)).toNat = op :=
  opcodeOf_of_toNat ((encodeW_toNat h ea data).trans (Nat.add_assoc _ _ _)) h (by omega)

theorem opcodeOf_encodeR (ea : EepromAddr) (out : Addr) : (opcodeOf (encodeR op ea out)).toNat = op :=
  opcodeOf_of_toNat ((encodeR_toNat h ea out).trans (Nat.add_assoc _ _ _)) h (by omega)

end Opcodes

/-- A field of a word, read as arithmetic. -/
theorem field_eq {w : Word} {k n : Nat} {x : BitVec n} (h : w.toNat / 2 ^ k % 2 ^ n = x.toNat) :
    w.extractLsb' k n = x :=
  BitVec.eq_of_toNat_eq ((field_toNat w k n).trans h)

/-- A bit of a word, read as arithmetic. -/
theorem bit_eq_of_div {w : Word} {k : Nat} {b : Bool} (h : w.toNat / 2 ^ k % 2 = b.toNat) : w.getLsbD k = b := by
  rw [bit_eq, h]
  cases b <;> rfl

/-- With the reserved bits zero, the operands are accepted. -/
theorem ifReservedZero_of {zero : Bool} (h : zero = true) (i : Instr) : ifReservedZero zero i = .ok i := by
  rw [ifReservedZero, if_pos h]

theorem formatZ_encodeZ {op : Nat} (h : op < 256) (i : Instr) : formatZ (encodeZ op) i = .ok i := by
  have hw := encodeZ_toNat h
  have hres : (encodeZ op).extractLsb' 0 56 = 0 := field_eq (by rw [hw]; simp)
  rw [formatZ, ifReservedZero_of (by simp [hres])]

theorem formatB_encodeB {op : Nat} (h : op < 256) (b : Byte) (mk : Byte → Instr) :
    formatB (encodeB op b) mk = .ok (mk b) := by
  have hw := encodeB_toNat h b
  have hb := b.isLt
  have hres : (encodeB op b).extractLsb' 8 48 = 0 := field_eq (by rw [hw]; simp; omega)
  have himm : (encodeB op b).extractLsb' 0 8 = b := field_eq (by rw [hw]; omega)
  rw [formatB, ifReservedZero_of (by simp [hres]), himm]

theorem formatP_encodeP {op : Nat} (h : op < 256) (ptr : Addr) (mk : Addr → Instr) :
    formatP (encodeP op ptr) mk = .ok (mk ptr) := by
  have hw := encodeP_toNat h ptr
  have hp := ptr.isLt
  have hres : (encodeP op ptr).extractLsb' 16 40 = 0 := field_eq (by rw [hw]; simp; omega)
  have hptr : (encodeP op ptr).extractLsb' 0 16 = ptr := field_eq (by rw [hw]; omega)
  rw [formatP, ifReservedZero_of (by simp [hres]), hptr]

theorem formatU_encodeU {op : Nat} (h : op < 256) (baud : BitVec 32) (safe : Byte) (par wlen : BitVec 2)
    (txm rxm rate : Bool) (mk : BitVec 32 → Byte → BitVec 2 → BitVec 2 → Bool → Bool → Bool → Instr) :
    formatU (encodeU op baud safe par wlen txm rxm rate) mk = .ok (mk baud safe par wlen txm rxm rate) := by
  have hw := encodeU_toNat h baud safe par wlen txm rxm rate
  have hbaud := baud.isLt
  have hsafe := safe.isLt
  have hpar := par.isLt
  have hwlen := wlen.isLt
  have htxm := txm.toNat_le
  have hrxm := rxm.toNat_le
  have hrate := rate.toNat_le
  generalize encodeU op baud safe par wlen txm rxm rate = w at hw
  have hres : w.extractLsb' 47 9 = 0 := field_eq (by rw [hw]; simp; omega)
  rw [formatU, ifReservedZero_of (by simp [hres]), field_eq (x := baud) (by omega), field_eq (x := safe) (by omega),
    field_eq (x := par) (by omega), field_eq (x := wlen) (by omega), bit_eq_of_div (b := txm) (by omega),
    bit_eq_of_div (b := rxm) (by omega), bit_eq_of_div (b := rate) (by omega)]

theorem formatT_encodeT {op : Nat} (h : op < 256) (tier : BitVec 2) (addr7 : BitVec 7)
    (mk : BitVec 2 → BitVec 7 → Instr) : formatT (encodeT op tier addr7) mk = .ok (mk tier addr7) := by
  have hw := encodeT_toNat h tier addr7
  have htier := tier.isLt
  have haddr := addr7.isLt
  generalize encodeT op tier addr7 = w at hw
  have hlow : w.getLsbD 7 = false := bit_eq_of_div (by rw [hw]; simp; omega)
  have hhigh : w.extractLsb' 10 46 = 0 := field_eq (by rw [hw]; simp; omega)
  rw [formatT, ifReservedZero_of (by rw [hlow, hhigh]; rfl), field_eq (x := tier) (by omega),
    field_eq (x := addr7) (by omega)]

theorem formatC_encodeC {op : Nat} (h : op < 256) (dir reg : Bool) (fn : FnRef) (mk : Bool → Bool → FnRef → Instr) :
    formatC (encodeC op dir reg fn) mk = .ok (mk dir reg fn) := by
  have hw := encodeC_toNat h dir reg fn
  have hdir := dir.toNat_le
  have hreg := reg.toNat_le
  have hfn := fn.isLt
  generalize encodeC op dir reg fn = w at hw
  have hres : w.extractLsb' 18 38 = 0 := field_eq (by rw [hw]; simp; omega)
  rw [formatC, ifReservedZero_of (by simp [hres]), bit_eq_of_div (b := dir) (by omega),
    bit_eq_of_div (b := reg) (by omega), field_eq (x := fn) (by omega)]

theorem formatW_encodeW {op : Nat} (h : op < 256) (ea : EepromAddr) (data : Byte) (mk : EepromAddr → Byte → Instr) :
    formatW (encodeW op ea data) mk = .ok (mk ea data) := by
  have hw := encodeW_toNat h ea data
  have hea := ea.isLt
  have hdata := data.isLt
  generalize encodeW op ea data = w at hw
  have hlow : w.extractLsb' 11 5 = 0 := field_eq (by rw [hw]; simp; omega)
  have hhigh : w.extractLsb' 24 32 = 0 := field_eq (by rw [hw]; simp; omega)
  rw [formatW, ifReservedZero_of (by simp [hlow, hhigh]), field_eq (x := ea) (by omega),
    field_eq (x := data) (by omega)]

theorem formatR_encodeR {op : Nat} (h : op < 256) (ea : EepromAddr) (out : Addr) (mk : EepromAddr → Addr → Instr) :
    formatR (encodeR op ea out) mk = .ok (mk ea out) := by
  have hw := encodeR_toNat h ea out
  have hea := ea.isLt
  have hout := out.isLt
  generalize encodeR op ea out = w at hw
  have hlow : w.extractLsb' 11 5 = 0 := field_eq (by rw [hw]; simp; omega)
  have hhigh : w.extractLsb' 32 24 = 0 := field_eq (by rw [hw]; simp; omega)
  rw [formatR, ifReservedZero_of (by simp [hlow, hhigh]), field_eq (x := ea) (by omega),
    field_eq (x := out) (by omega)]

/-- The decoder takes the row of the word's opcode, and its format reads the operands back. -/
theorem decode_encode (i : Instr) : decode (encode i) = .ok i := by
  cases i with
  | iret | uartRecv | spiInitm | spiInits | spiRecv | i2cStart | i2cRdack | i2cRdnack | i2cStop | i2cStatus | eeInit =>
    simp [encode, decode, opcodeOf_encodeZ, formatZ_encodeZ]
  | uartInit => simp [encode, decode, opcodeOf_encodeU, formatU_encodeU]
  | uartSend | spiSend | i2cWrite => simp [encode, decode, opcodeOf_encodeB, formatB_encodeB]
  | uartSends | uartRecvs | spiSends | spiRecvs => simp [encode, decode, opcodeOf_encodeP, formatP_encodeP]
  | uartSetcb | spiSetcb => simp [encode, decode, opcodeOf_encodeC, formatC_encodeC]
  | i2cInit => simp [encode, decode, opcodeOf_encodeT, formatT_encodeT]
  | eeWrite => simp [encode, decode, opcodeOf_encodeW, formatW_encodeW]
  | eeRead => simp [encode, decode, opcodeOf_encodeR, formatR_encodeR]

/-! ### The step on the turn of CMD (R6, R24, R25) -/

/-- CMD runs the micro-step of the decoded command in flight. -/
theorem cmdStep_inFlight {s : State} {k : InFlight} {i : Instr} (hk : s.cur = some k) (hd : decode k.word = .ok i) :
    cmdStep s = exec i s := by
  simp [cmdStep, hk, hd]

/-- The step gives the first turn of the schedule to its agent. -/
theorem step_cons {s : State} {t : Turn} {rest : List Turn} (h : s.turns = t :: rest) :
    step s = takeTurn t { s with turns := rest } := by
  rw [step, h]

theorem step_nil {s : State} (h : s.turns = []) : step s = .next s := by
  rw [step, h]

/-- `withFetchWord` puts the whole word in flight at u0, and CMD's turn next. -/
theorem withFetchWord_eq (s : State) (w : Word) :
    s.withFetchWord 64 w.toNat = { s.setCur (some (InFlight.issued w)) with turns := .cmd :: s.turns } := by
  have hw : BitVec.ofNat 64 (w.toNat % 2 ^ 64) = w := by
    rw [Nat.mod_eq_of_lt w.isLt, BitVec.ofNat_toNat, BitVec.setWidth_eq]
  rw [State.withFetchWord, hw, State.withCommand]

/-- A turn taken from the schedule that was put before it leaves the schedule. -/
theorem turns_restored {s : State} {turns : List Turn} (h : s.turns = turns) : { s with turns := turns } = s := by
  rw [← h]

theorem step_cmd {s : State} {rest : List Turn} {k : InFlight} {i : Instr} (ht : s.turns = .cmd :: rest)
    (hk : s.cur = some k) (hd : decode k.word = .ok i) : step s = exec i { s with turns := rest } :=
  (step_cons ht).trans (cmdStep_inFlight (s := { s with turns := rest }) hk hd)

/-- Settles O6: CMD decodes the word in flight, and the word that `withFetchWord` places decodes to its command. -/
theorem stepRunsTheCommandInFlight : Obligations.StepRunsTheCommandInFlight := by
  refine ⟨fun s rest k i => step_cmd, fun s i _ => ?_⟩
  have hcur : (s.withFetchWord 64 (encode i).toNat).cur = some (InFlight.issued (encode i)) := by
    rw [withFetchWord_eq]
    exact State.cur_setCur s _
  rw [step_cmd (rest := s.turns) rfl hcur (decode_encode i), withFetchWord_eq]
  exact congrArg (exec i) (turns_restored (State.setCur_turns s _))

end Sys2Proof.Proofs
end

section
/-!
PROOFS. No step faults, and the commands in flight stay admitted (R10, R131, R278, R279). One pass over the 24 commands
says of every micro-step both that it does not fault and what it does to the commands in flight and to the modes that
admission reads; the step lemma follows turn by turn.
-/

namespace Sys2Proof.Proofs

open Sys2Proof Sys2Proof.Machine

/-! ### What an outcome yields -/

/-- The outcome is no fault, and a next state has the property; a refusal ends the run, and nothing is said of it. -/
def Yields (r : Result) (P : State → Prop) : Prop :=
  match r with
  | .next t => P t
  | .fault _ => False
  | .refused _ => True

section Yields
variable {P Q : State → Prop} {r : Result} {s : State}

@[simp] theorem yields_next {t : State} : Yields (.next t) P ↔ P t := Iff.rfl
@[simp] theorem yields_refused {q : Refusal} : Yields (.refused q) P := trivial
@[simp] theorem yields_fault {f : Fault} : ¬ Yields (.fault f) P := id

theorem yields_iff : Yields r P ↔ (∀ f, r ≠ .fault f) ∧ ∀ t, r = .next t → P t := by
  cases r <;> simp

theorem Yields.mono (h : Yields r P) (hPQ : ∀ t, P t → Q t) : Yields r Q := by
  rw [yields_iff] at h ⊢
  exact ⟨h.1, fun t ht => hPQ t (h.2 t ht)⟩

theorem yields_require {c : Prop} [Decidable c] {q : Refusal} (h : c → Yields r P) : Yields (require c q r) P := by
  unfold require
  split
  · next hc => exact h hc
  · trivial

theorem yields_holdUntil {c : Bool} (hheld : P s) (h : Yields r P) : Yields (holdUntil c s r) P := by
  unfold holdUntil
  split
  · exact h
  · exact hheld

theorem yields_microStep {i : Instr} {k : InFlight} {body : InFlight → Result} (hk : s.cur = some k)
    (h : Yields (body k) P) : Yields (microStep i s body) P := by
  rw [yields_iff] at h ⊢
  simp only [ne_eq, microStep_fault, microStep_next, hk, reduceCtorEq, false_and, false_or, Option.some.injEq]
  refine ⟨?_, ?_⟩
  · rintro f ⟨_, rfl, -, hf⟩
    exact h.1 f hf
  · rintro t ⟨_, rfl, -, ht⟩
    exact h.2 t ht

theorem yields_storeByte {a : Nat} {v : Byte} {body : State → Result} (h : Yields (body (s.writeMem a v)) P) :
    Yields (storeByte a v s body) P :=
  yields_require fun _ => yields_require fun _ => h

theorem yields_loadByte {a : Nat} {body : Byte → Result} (h : Yields (body (s.readMem a)) P) :
    Yields (loadByte a s body) P :=
  yields_require fun _ => h

theorem yields_i2cIssue {x : I2cOp} {body : State → Result}
    (h : Yields (body { s with i2c := { s.i2c with op := some x, done := false } }) P) : Yields (i2cIssue x s body) P :=
  yields_require fun _ => yields_require fun _ => h

theorem yields_checkStatus {code : Byte} {k : InFlight} {n : Nat} (hok : P (s.goto k n))
    (herr : P (s.setRes Config.resError).complete) : Yields (checkStatus code s k n) P := by
  unfold checkStatus
  split
  · exact hok
  · exact herr

end Yields

/-! ### Which commands are in flight, and the modes that admission reads -/

/-- Every command in flight in `t` is in flight in `s`, in the same context. -/
def CommandsFrom (s t : State) : Prop :=
  ∀ c k', (t.bank c).cur = some k' → ∃ k, (s.bank c).cur = some k ∧ k'.word = k.word

/-- What admission reads of the UART (R131, R134). -/
def uartModes (s : State) : Bool × Bool × Bool := (s.uart.inited, s.uart.txm, s.uart.rxm)

/-- What admission reads of the SPI (R171). -/
def spiModes (s : State) : Bool × Bool := (s.spi.inited, s.spi.ie)

/-- `t` has no command in flight that `s` has not, and its modes are those of `s`. -/
structure Continues (s t : State) : Prop where
  commands : CommandsFrom s t
  uart : uartModes t = uartModes s
  spi : spiModes t = spiModes s

theorem commandsFrom_of_banks {s t : State} (hfg : t.fg = s.fg) (hisr : t.isr = s.isr) : CommandsFrom s t := by
  intro c k hk
  cases c with
  | fg => exact ⟨k, (congrArg Bank.cur hfg).symm.trans hk, rfl⟩
  | isr => exact ⟨k, (congrArg Bank.cur hisr).symm.trans hk, rfl⟩

theorem CommandsFrom.complete {s t : State} (h : CommandsFrom s t) : CommandsFrom s t.complete := by
  intro c k hk
  rw [State.complete, State.setCur_bank] at hk
  split at hk
  · cases hk
  · exact h c k hk

theorem CommandsFrom.setRet {s t : State} (h : CommandsFrom s t) (v : Byte) : CommandsFrom s (t.setRet v) := by
  intro c k hk
  rw [State.setRet_bank] at hk
  split at hk <;> exact h c k hk

theorem CommandsFrom.setRes {s t : State} (h : CommandsFrom s t) (v : BitVec 1) : CommandsFrom s (t.setRes v) := by
  intro c k hk
  rw [State.setRes_bank] at hk
  split at hk <;> exact h c k hk

theorem CommandsFrom.goto {s t : State} {k k' : InFlight} (h : CommandsFrom s t) (hk : t.cur = some k)
    (hw : k'.word = k.word) (n : Nat) : CommandsFrom s (t.goto k' n) := by
  intro c l hl
  rw [State.goto, State.setCur_bank] at hl
  split at hl
  · next hc =>
    subst hc
    cases hl
    obtain ⟨j, hj, hkj⟩ := h t.ctx k hk
    exact ⟨j, hj, hw.trans hkj⟩
  · exact h c l hl

namespace Continues
variable {s t : State}

/-- An update that writes no bank and no mode. -/
theorem of_banks (hfg : t.fg = s.fg) (hisr : t.isr = s.isr) (hu : uartModes t = uartModes s)
    (hs : spiModes t = spiModes s) : Continues s t := ⟨commandsFrom_of_banks hfg hisr, hu, hs⟩

theorem refl (s : State) : Continues s s := of_banks rfl rfl rfl rfl

theorem recvStep (s : State) : Continues s s.recvStep := of_banks rfl rfl rfl rfl

theorem spiGet (s : State) : Continues s s.spiGet := of_banks rfl rfl rfl rfl

theorem stopStep (s : State) : Continues s s.stopStep := of_banks rfl rfl rfl rfl

theorem complete (h : Continues s t) : Continues s t.complete :=
  ⟨h.commands.complete, by simpa [uartModes] using h.uart, by simpa [spiModes] using h.spi⟩

theorem setRet (h : Continues s t) (v : Byte) : Continues s (t.setRet v) :=
  ⟨h.commands.setRet v, by simpa [uartModes] using h.uart, by simpa [spiModes] using h.spi⟩

theorem setRes (h : Continues s t) (v : BitVec 1) : Continues s (t.setRes v) :=
  ⟨h.commands.setRes v, by simpa [uartModes] using h.uart, by simpa [spiModes] using h.spi⟩

theorem goto {k k' : InFlight} (h : Continues s t) (hk : t.cur = some k) (hw : k'.word = k.word) (n : Nat) :
    Continues s (t.goto k' n) :=
  ⟨h.commands.goto hk hw n, by simpa [uartModes] using h.uart, by simpa [spiModes] using h.spi⟩

theorem returnFromHandler (h : Continues s t) : Continues s t.returnFromHandler :=
  ⟨h.complete.commands, h.complete.uart, h.complete.spi⟩

end Continues

/-! ### The two ends of a micro-step -/

section Ends
variable {s t : State}

theorem yields_complete (h : Continues s t) : Yields (.next t.complete) (Continues s) := h.complete

theorem yields_goto {k k' : InFlight} {n : Nat} (h : Continues s t) (hk : t.cur = some k) (hw : k'.word = k.word) :
    Yields (.next (t.goto k' n)) (Continues s) := h.goto hk hw n

end Ends

/-! ### The EEPROM sequencer's micro-steps -/

section Eeprom
variable {s : State} {k : InFlight} {n : Nat}

theorem eepromSend_continues (b : Byte) (hk : s.cur = some k) : Yields (eepromSend b s k n) (Continues s) :=
  yields_i2cIssue <| yields_goto (.of_banks rfl rfl rfl rfl) hk rfl

theorem eepromIssue_continues (x : I2cOp) (hk : s.cur = some k) : Yields (eepromIssue x s k n) (Continues s) :=
  yields_i2cIssue <| yields_goto (.of_banks rfl rfl rfl rfl) hk rfl

theorem checkStatus_continues {t : State} (code : Byte) (h : Continues s t) (hk : t.cur = some k) :
    Yields (checkStatus code t k n) (Continues s) :=
  yields_checkStatus (h.goto hk rfl n) (h.setRes _).complete

theorem eepromWait_continues (code : Byte) (hk : s.cur = some k) : Yields (eepromWait code s k n) (Continues s) :=
  yields_holdUntil (.refl s) (checkStatus_continues code (.refl s) hk)

theorem eepromFinish_continues (s : State) : Yields (eepromFinish s) (Continues s) :=
  yields_complete (.setRes (.stopStep s) _)

end Eeprom

/-! ### The commands other than the inits of the UART and the SPI

Each micro-step of a command in flight continues it or completes it and leaves the modes alone. -/

section Commands
variable {s : State} {k : InFlight} (hk : s.cur = some k)
include hk

theorem execIret_continues (hu : k.uph < 1) : Yields (execIret s) (Continues s) := by
  refine yields_microStep hk ?_
  split
  · exact (Continues.refl s).returnFromHandler
  · grind

theorem execUartSend_continues (b : Byte) (hu : k.uph < 1) : Yields (execUartSend b s) (Continues s) := by
  refine yields_microStep hk ?_
  split
  · exact yields_holdUntil (.refl s) (yields_complete (.of_banks rfl rfl rfl rfl))
  · grind

theorem execUartRecv_continues (hu : k.uph < 1) : Yields (execUartRecv s) (Continues s) := by
  refine yields_microStep hk ?_
  split
  · exact yields_holdUntil (.refl s) (yields_complete (.setRet (.recvStep s) _))
  · grind

theorem execUartSends_continues (ptr : Addr) (hu : k.uph < 3) : Yields (execUartSends ptr s) (Continues s) := by
  refine yields_microStep hk ?_
  split
  · exact yields_goto (.refl s) hk rfl
  · exact yields_loadByte (yields_goto (.refl s) hk rfl)
  · refine yields_holdUntil (.refl s) ?_
    split
    · exact yields_complete (.of_banks rfl rfl rfl rfl)
    · exact yields_goto (.of_banks rfl rfl rfl rfl) hk rfl
  · grind

theorem execUartRecvs_continues (ptr : Addr) (hu : k.uph < 3) : Yields (execUartRecvs ptr s) (Continues s) := by
  refine yields_microStep hk ?_
  split
  · exact yields_holdUntil (.refl s) (yields_goto (.of_banks rfl rfl rfl rfl) hk rfl)
  · split
    · exact yields_goto (.refl s) hk rfl
    · exact yields_holdUntil (.refl s) (yields_storeByte (yields_goto (.of_banks rfl rfl rfl rfl) hk rfl))
  · exact yields_storeByte (yields_complete (.of_banks rfl rfl rfl rfl))
  · grind

theorem execUartSetcb_continues (dir reg : Bool) (fn : FnRef) (hu : k.uph < 1) :
    Yields (execUartSetcb dir reg fn s) (Continues s) := by
  refine yields_microStep hk ?_
  split
  · split <;> exact yields_complete (.of_banks rfl rfl rfl rfl)
  · grind

theorem execSpiSend_continues (b : Byte) (hu : k.uph < 2) : Yields (execSpiSend b s) (Continues s) := by
  refine yields_microStep hk ?_
  split
  · exact yields_goto (.of_banks rfl rfl rfl rfl) hk rfl
  · exact yields_holdUntil (.refl s) (yields_complete (.refl s))
  · grind

theorem execSpiRecv_continues (hu : k.uph < 1) : Yields (execSpiRecv s) (Continues s) := by
  refine yields_microStep hk ?_
  split
  · exact yields_holdUntil (.refl s) (yields_complete (.setRet (.spiGet s) _))
  · grind

theorem execSpiSends_continues (ptr : Addr) (hu : k.uph < 4) : Yields (execSpiSends ptr s) (Continues s) := by
  refine yields_microStep hk ?_
  split
  · exact yields_goto (.refl s) hk rfl
  · exact yields_loadByte (yields_goto (.refl s) hk rfl)
  · exact yields_goto (.of_banks rfl rfl rfl rfl) hk rfl
  · refine yields_holdUntil (.refl s) ?_
    split
    · exact yields_complete (.refl s)
    · exact yields_goto (.refl s) hk rfl
  · grind

theorem execSpiRecvs_continues (ptr : Addr) (hu : k.uph < 3) : Yields (execSpiRecvs ptr s) (Continues s) := by
  refine yields_microStep hk ?_
  split
  · exact yields_holdUntil (.refl s) (yields_goto (.of_banks rfl rfl rfl rfl) hk rfl)
  · split
    · exact yields_goto (.refl s) hk rfl
    · exact yields_holdUntil (.refl s) (yields_storeByte (yields_goto (.of_banks rfl rfl rfl rfl) hk rfl))
  · exact yields_storeByte (yields_complete (.of_banks rfl rfl rfl rfl))
  · grind

theorem execSpiSetcb_continues (dir reg : Bool) (fn : FnRef) (hu : k.uph < 1) :
    Yields (execSpiSetcb dir reg fn s) (Continues s) := by
  refine yields_microStep hk ?_
  split
  · exact yields_complete (.of_banks rfl rfl rfl rfl)
  · grind

theorem execI2cInit_continues (tier : BitVec 2) (addr7 : BitVec 7) (hu : k.uph < 1) :
    Yields (execI2cInit tier addr7 s) (Continues s) := by
  refine yields_microStep hk ?_
  split
  · exact yields_complete (.of_banks rfl rfl rfl rfl)
  · grind

theorem execI2cStart_continues (hu : k.uph < 2) : Yields (execI2cStart s) (Continues s) := by
  refine yields_microStep hk ?_
  split
  · exact yields_i2cIssue (yields_goto (.of_banks rfl rfl rfl rfl) hk rfl)
  · exact yields_holdUntil (.refl s) (yields_complete (.refl s))
  · grind

theorem execI2cWrite_continues (b : Byte) (hu : k.uph < 2) : Yields (execI2cWrite b s) (Continues s) := by
  refine yields_microStep hk ?_
  split
  · exact yields_require fun _ => yields_i2cIssue (yields_goto (.of_banks rfl rfl rfl rfl) hk rfl)
  · exact yields_holdUntil (.refl s) (yields_complete (.refl s))
  · grind

theorem execI2cRdack_continues (hu : k.uph < 2) : Yields (execI2cRdack s) (Continues s) := by
  refine yields_microStep hk ?_
  split
  · exact yields_require fun _ => yields_i2cIssue (yields_goto (.of_banks rfl rfl rfl rfl) hk rfl)
  · exact yields_holdUntil (.refl s) (yields_complete (.setRet (.refl s) _))
  · grind

theorem execI2cRdnack_continues (hu : k.uph < 2) : Yields (execI2cRdnack s) (Continues s) := by
  refine yields_microStep hk ?_
  split
  · exact yields_require fun _ => yields_i2cIssue (yields_goto (.of_banks rfl rfl rfl rfl) hk rfl)
  · exact yields_holdUntil (.refl s) (yields_complete (.setRet (.refl s) _))
  · grind

theorem execI2cStop_continues (hu : k.uph < 1) : Yields (execI2cStop s) (Continues s) := by
  refine yields_microStep hk ?_
  split
  · exact yields_require fun _ => yields_complete (.of_banks rfl rfl rfl rfl)
  · grind

theorem execI2cStatus_continues (hu : k.uph < 1) : Yields (execI2cStatus s) (Continues s) := by
  refine yields_microStep hk ?_
  split
  · exact yields_complete (.setRet (.refl s) _)
  · grind

theorem execEeInit_continues (hu : k.uph < 1) : Yields (execEeInit s) (Continues s) := by
  refine yields_microStep hk ?_
  split
  · exact yields_complete (.of_banks rfl rfl rfl rfl)
  · grind

theorem execEeWrite_continues (ea : EepromAddr) (data : Byte) (hu : k.uph < 9) :
    Yields (execEeWrite ea data s) (Continues s) := by
  refine yields_microStep hk ?_
  split
  · exact eepromIssue_continues _ hk
  · exact eepromWait_continues _ hk
  · exact eepromSend_continues _ hk
  · exact eepromWait_continues _ hk
  · exact eepromSend_continues _ hk
  · exact eepromWait_continues _ hk
  · exact eepromSend_continues _ hk
  · exact eepromWait_continues _ hk
  · exact eepromFinish_continues s
  · grind

theorem execEeRead_continues (ea : EepromAddr) (out : Addr) (hu : k.uph < 13) :
    Yields (execEeRead ea out s) (Continues s) := by
  refine yields_microStep hk ?_
  split
  · exact eepromIssue_continues _ hk
  · exact eepromWait_continues _ hk
  · exact eepromSend_continues _ hk
  · exact eepromWait_continues _ hk
  · exact eepromSend_continues _ hk
  · exact eepromWait_continues _ hk
  · exact eepromIssue_continues _ hk
  · exact eepromWait_continues _ hk
  · exact eepromSend_continues _ hk
  · exact eepromWait_continues _ hk
  · exact eepromIssue_continues _ hk
  · exact yields_holdUntil (.refl s) (yields_storeByte (checkStatus_continues _ (.of_banks rfl rfl rfl rfl) hk))
  · exact eepromFinish_continues s
  · grind

end Commands

/-! ### The inits of the UART and the SPI

An init writes modes. No command that shares no class with it is admitted by those. -/

/-- Admission by unit and mode reads the modes of the units whose classes the command has, and nothing else (R131, R171,
R278). -/
theorem modeRefusal_congr {c : Ctx} {s t : State} {j : Instr}
    (hu : .uartTx ∈ transferClasses j ∨ .uartRx ∈ transferClasses j → uartModes t = uartModes s)
    (hs : .spi ∈ transferClasses j → spiModes t = spiModes s) : modeRefusal c t j = modeRefusal c s j := by
  simp only [uartModes, spiModes, Prod.mk.injEq] at hu hs
  cases j with
  | iret | uartSetcb | spiSetcb | i2cInit | i2cStart | i2cWrite | i2cRdack | i2cRdnack | i2cStop | i2cStatus | eeInit
  | eeWrite | eeRead => rfl
  | uartInit | uartSend | uartRecv | uartSends | uartRecvs =>
    obtain ⟨hinit, htxm, hrxm⟩ := hu (by simp [transferClasses])
    simp [modeRefusal, modeRefusal.uartSendRefusal, modeRefusal.uartRecvRefusal, hinit, htxm, hrxm]
  | spiInitm | spiInits | spiSend | spiRecv | spiSends | spiRecvs =>
    obtain ⟨hinit, hie⟩ := hs (by simp [transferClasses])
    simp [modeRefusal, hinit, hie]

/-- The command `i` of the current context has completed, and a command that shares no class with it is admitted as
before. -/
structure CompletesApart (i : Instr) (s t : State) : Prop where
  commands : CommandsFrom s t
  completed : (t.bank s.ctx).cur = none
  modes : ∀ c j, sharesClass i j = false → modeRefusal c t j = modeRefusal c s j

theorem bank_complete_cur (s : State) : (s.complete.bank s.ctx).cur = none := by
  simp [State.complete, State.setCur_bank]

theorem uartInit_completesApart {i : Instr} {s : State} {u : Uart} (hi : transferClasses i = [.uartTx, .uartRx]) :
    CompletesApart i s ({ s with uart := u } : State).complete where
  commands := (commandsFrom_of_banks rfl rfl).complete
  completed := bank_complete_cur { s with uart := u }
  modes c j hj := by
    have hno : ¬ (.uartTx ∈ transferClasses j ∨ .uartRx ∈ transferClasses j) := by simpa [sharesClass, hi] using hj
    exact modeRefusal_congr (fun h => absurd h hno) fun _ => by simp [spiModes]

theorem spiInit_completesApart {i : Instr} {s : State} {u : Spi} (hi : transferClasses i = [.spi]) :
    CompletesApart i s ({ s with spi := u } : State).complete where
  commands := (commandsFrom_of_banks rfl rfl).complete
  completed := bank_complete_cur { s with spi := u }
  modes c j hj := by
    have hno : .spi ∉ transferClasses j := by simpa [sharesClass, hi] using hj
    exact modeRefusal_congr (fun _ => by simp [uartModes]) fun h => absurd h hno

section Inits
variable {s : State} {k : InFlight} (hk : s.cur = some k) (hu : k.uph < 1)
include hk hu

theorem execUartInit_completesApart (baud : BitVec 32) (safe : Byte) (par wlen : BitVec 2) (txm rxm rate : Bool) :
    Yields (execUartInit baud safe par wlen txm rxm rate s)
      (CompletesApart (.uartInit baud safe par wlen txm rxm rate) s) := by
  refine yields_microStep hk ?_
  split
  · split
    · trivial
    · exact uartInit_completesApart rfl
  · grind

theorem execSpiInitm_completesApart : Yields (execSpiInitm s) (CompletesApart .spiInitm s) := by
  refine yields_microStep hk ?_
  split
  · exact spiInit_completesApart rfl
  · grind

theorem execSpiInits_completesApart : Yields (execSpiInits s) (CompletesApart .spiInits s) := by
  refine yields_microStep hk ?_
  split
  · exact spiInit_completesApart rfl
  · grind

end Inits

/-- A micro-step of a command in flight does not fault; it continues or completes its command, and what else it does to
admission concerns commands of its own classes only. -/
theorem exec_yields {i : Instr} {s : State} {k : InFlight} (hk : s.cur = some k) (hu : k.uph < microSteps i) :
    Yields (exec i s) fun t => Continues s t ∨ CompletesApart i s t := by
  cases i with
  | iret => exact (execIret_continues hk hu).mono fun _ => .inl
  | uartInit baud safe par wlen txm rxm rate =>
    exact (execUartInit_completesApart hk hu baud safe par wlen txm rxm rate).mono fun _ => .inr
  | uartSend b => exact (execUartSend_continues hk b hu).mono fun _ => .inl
  | uartRecv => exact (execUartRecv_continues hk hu).mono fun _ => .inl
  | uartSends ptr => exact (execUartSends_continues hk ptr hu).mono fun _ => .inl
  | uartRecvs ptr => exact (execUartRecvs_continues hk ptr hu).mono fun _ => .inl
  | uartSetcb dir reg fn => exact (execUartSetcb_continues hk dir reg fn hu).mono fun _ => .inl
  | spiInitm => exact (execSpiInitm_completesApart hk hu).mono fun _ => .inr
  | spiInits => exact (execSpiInits_completesApart hk hu).mono fun _ => .inr
  | spiSend b => exact (execSpiSend_continues hk b hu).mono fun _ => .inl
  | spiRecv => exact (execSpiRecv_continues hk hu).mono fun _ => .inl
  | spiSends ptr => exact (execSpiSends_continues hk ptr hu).mono fun _ => .inl
  | spiRecvs ptr => exact (execSpiRecvs_continues hk ptr hu).mono fun _ => .inl
  | spiSetcb dir reg fn => exact (execSpiSetcb_continues hk dir reg fn hu).mono fun _ => .inl
  | i2cInit tier addr7 => exact (execI2cInit_continues hk tier addr7 hu).mono fun _ => .inl
  | i2cStart => exact (execI2cStart_continues hk hu).mono fun _ => .inl
  | i2cWrite b => exact (execI2cWrite_continues hk b hu).mono fun _ => .inl
  | i2cRdack => exact (execI2cRdack_continues hk hu).mono fun _ => .inl
  | i2cRdnack => exact (execI2cRdnack_continues hk hu).mono fun _ => .inl
  | i2cStop => exact (execI2cStop_continues hk hu).mono fun _ => .inl
  | i2cStatus => exact (execI2cStatus_continues hk hu).mono fun _ => .inl
  | eeInit => exact (execEeInit_continues hk hu).mono fun _ => .inl
  | eeWrite ea data => exact (execEeWrite_continues hk ea data hu).mono fun _ => .inl
  | eeRead ea out => exact (execEeRead_continues hk ea out hu).mono fun _ => .inl

/-! ### Every command in flight is admitted in its context -/

/-- Every command in flight is legal, overlaps no suspended foreground command, and is admitted by its unit and mode, in
the context it is in flight in. -/
def AllAdmitted (s : State) : Prop :=
  ∀ c k i, (s.bank c).cur = some k → decode k.word = .ok i → admissionIn c s i = none

/-- Admission in any context, by its three parts (`admission_none` for the current one). -/
theorem admissionIn_none {c : Ctx} {s : State} {i : Instr} :
    admissionIn c s i = none ↔
      i.wellFormed = true ∧ (c = .isr → s.foregroundUses i = false) ∧ modeRefusal c s i = none := by
  unfold admissionIn
  cases i.wellFormed <;> cases c <;> cases s.foregroundUses i <;> simp

/-- No overlap with the foreground: its command in flight, if it decodes, shares no class with this one (R278). -/
theorem foregroundUses_eq_false {s : State} {i : Instr} :
    s.foregroundUses i = false ↔
      ∀ k, s.fg.cur = some k → ∀ j, decode k.word = .ok j → sharesClass i j = false := by
  unfold State.foregroundUses
  cases hfg : s.fg.cur with
  | none => simp
  | some k =>
    cases hd : decode k.word with
    | error e => simp [InFlight.instr, hd]
    | ok j => simp [InFlight.instr, hd]

/-- A foreground that runs no other command than before overlaps no command that it did not overlap. -/
theorem CommandsFrom.foregroundUses {s t : State} (h : CommandsFrom s t) {i : Instr}
    (hi : s.foregroundUses i = false) : t.foregroundUses i = false := by
  rw [foregroundUses_eq_false] at hi ⊢
  intro k' hk' j hd
  obtain ⟨k, hk, hw⟩ := h .fg k' hk'
  exact hi k hk j (hw ▸ hd)

theorem sound_of_inv {s : State} (hi : Inv s) {c : Ctx} {k : InFlight} (hk : (s.bank c).cur = some k) : k.sound := by
  cases c with
  | fg => exact hi.foreground k hk
  | isr => exact hi.handler k hk

theorem allAdmitted_of_inv {s : State} (hi : Inv s) (ha : Admitted s) : AllAdmitted s := by
  intro c k i hk hd
  obtain ⟨hmode, hoverlap⟩ := ha
  obtain ⟨j, hj, hwf, -, -⟩ := sound_of_inv hi hk
  obtain rfl : j = i := by simpa [hj] using hd
  refine admissionIn_none.mpr ⟨hwf, ?_, hmode c k j hk hd⟩
  rintro rfl
  exact hoverlap k j hk hd

namespace AllAdmitted
variable {s t : State}

/-- Commands that stay in flight stay admitted where the modes refuse nothing that they accepted before. -/
theorem of_commandsFrom (h : AllAdmitted s) (hc : CommandsFrom s t)
    (hm : ∀ c k j, (t.bank c).cur = some k → decode k.word = .ok j → modeRefusal c t j = modeRefusal c s j) :
    AllAdmitted t := by
  intro c k' i hk' hd
  obtain ⟨k, hk, hw⟩ := hc c k' hk'
  obtain ⟨hwf, hoverlap, hmode⟩ := admissionIn_none.mp (h c k i hk (hw ▸ hd))
  exact admissionIn_none.mpr ⟨hwf, fun hisr => hc.foregroundUses (hoverlap hisr), (hm c k' i hk' hd).trans hmode⟩

theorem of_continues (h : AllAdmitted s) (hst : Continues s t) : AllAdmitted t :=
  h.of_commandsFrom hst.commands fun _ _ _ _ _ => modeRefusal_congr (fun _ => hst.uart) fun _ => hst.spi

/-- The one command that can be in flight beside a completed one is the suspended foreground's, and that shares no class
with it. -/
theorem of_completesApart {i : Instr} {k : InFlight} (h : AllAdmitted s) (hfree : s.ctx = .fg → s.isr.cur = none)
    (hk : s.cur = some k) (hd : decode k.word = .ok i) (hst : CompletesApart i s t) : AllAdmitted t := by
  refine h.of_commandsFrom hst.commands fun c k' j hk' hj => hst.modes c j ?_
  obtain ⟨l, hl, hw⟩ := hst.commands c k' hk'
  have hne : c ≠ s.ctx := by
    rintro rfl
    simp [hst.completed] at hk'
  cases hctx : s.ctx with
  | fg =>
    cases c with
    | fg => exact absurd hctx.symm hne
    | isr => simp [hfree hctx] at hl
  | isr =>
    cases c with
    | fg =>
      have hcur : (s.bank .isr).cur = some k := by rw [← hctx]; exact hk
      obtain ⟨-, hoverlap, -⟩ := admissionIn_none.mp (h .isr k i hcur hd)
      exact foregroundUses_eq_false.mp (hoverlap rfl) l hl j (hw ▸ hj)
    | isr => exact absurd hctx.symm hne

end AllAdmitted

/-! ### The other agents (R6)

But for HOST's issue and the power-on reset, no agent writes a bank or a mode. -/

theorem utxStep_continues (s : State) : Continues s (utxStep s) := by
  unfold utxStep
  split <;> exact .of_banks rfl rfl rfl rfl

theorem receiveFrame_continues (s : State) (d : Byte) (p stop : Bool) : Continues s (s.receiveFrame d p stop) := by
  unfold State.receiveFrame
  cases s.uart.verdict <;> exact .of_banks rfl rfl rfl rfl

theorem urxStep_continues (o : Offer) (s : State) : Continues s (urxStep o s) := by
  unfold urxStep
  split
  · exact .refl s
  · next d p stop _ =>
    obtain ⟨hc, hu, hs⟩ := receiveFrame_continues s d p stop
    split <;> exact ⟨hc, hu, hs⟩

theorem spxMasterStep_continues (p : Peer) (s : State) : Continues s (spxMasterStep p s) := by
  unfold spxMasterStep
  split <;> exact .of_banks rfl rfl rfl rfl

theorem spxSlaveStep_continues (m : Byte) (s : State) : Continues s (spxSlaveStep m s) := by
  unfold spxSlaveStep
  split <;> exact .of_banks rfl rfl rfl rfl

theorem i2bStep_continues (r : BusReply) (s : State) : Continues s (i2bStep r s) := by
  unfold i2bStep
  split
  · cases r <;> exact .of_banks rfl rfl rfl rfl
  · cases r <;> exact .of_banks rfl rfl rfl rfl
  · cases r <;> exact .of_banks rfl rfl rfl rfl
  · cases r <;> exact .of_banks rfl rfl rfl rfl
  · cases r <;> exact .of_banks rfl rfl rfl rfl
  · exact .refl s

theorem i2bDeviceStep_continues (declines : Bool) (s : State) : Continues s (i2bDeviceStep declines s) := by
  unfold i2bDeviceStep
  split
  · exact .refl s
  · obtain ⟨hc, hu, hs⟩ := i2bStep_continues (s.deviceReply declines).1
      { s with dev := (s.deviceReply declines).2, draws := s.draws + 1 }
    exact ⟨hc, hu, hs⟩

theorem hostWrite_continues (a : Addr) (v : Byte) (s : State) : Yields (hostWrite a v s) (Continues s) :=
  yields_require fun _ => Continues.of_banks rfl rfl rfl rfl

/-- A dispatch changes the context and no bank (R272). -/
theorem irqStep_continues (src : IrqSource) (honoured : Bool) (s : State) :
    Yields (irqStep src honoured s) (Continues s) := by
  unfold irqStep
  split
  · refine yields_iff.mpr ⟨fun _ => takeInterrupt_fault, fun t ht => ?_⟩
    obtain ⟨-, rfl⟩ | ⟨_, -, -, rfl⟩ := takeInterrupt_next.mp ht <;> exact .of_banks rfl rfl rfl rfl
  · exact Continues.refl s

/-- After the power-on reset no command is in flight (R290). -/
theorem powerOn_allAdmitted (s : State) : AllAdmitted (powerOn s) := by
  intro c k _ hk
  cases c <;> cases hk

theorem legalCommand_eq_some {w : Word} {i : Instr} :
    legalCommand w = some i ↔ decode w = .ok i ∧ i.wellFormed = true := by
  unfold legalCommand
  cases hd : decode w with
  | error e => simp
  | ok j => cases hw : j.wellFormed <;> grind

/-- HOST's issue checks the command it puts in flight, and what is in flight in the other context is the suspended
foreground, if anything (R24, R280). -/
theorem hostIssue_allAdmitted {c : Ctx} {w : Word} {s t : State} (hfree : s.ctx = .fg → s.isr.cur = none)
    (ha : AllAdmitted s) (h : hostIssue c w s = .next t) : AllAdmitted t := by
  obtain ⟨hctx, -, i, hlegal, hadm, rfl⟩ := hostIssue_next.mp h
  obtain ⟨hdec, -⟩ := legalCommand_eq_some.mp hlegal
  have hmode : ∀ d j b, modeRefusal d (s.setBank c b) j = modeRefusal d s j := fun d j b =>
    modeRefusal_congr (fun _ => by simp [uartModes]) fun _ => by simp [spiModes]
  intro d k j hk hj
  by_cases hdc : d = c
  · subst hdc
    rw [State.bank_setBank_self] at hk
    cases hk
    obtain rfl : i = j := by simpa [InFlight.issued, hdec] using hj
    obtain ⟨hwf, hoverlap, hm⟩ := admissionIn_none.mp hadm
    refine admissionIn_none.mpr ⟨hwf, ?_, (hmode ..).trans hm⟩
    rintro rfl
    exact hoverlap rfl
  · rw [State.bank_setBank_other s c d _ hdc] at hk
    obtain ⟨hwf, -, hm⟩ := admissionIn_none.mp (ha d k j hk hj)
    refine admissionIn_none.mpr ⟨hwf, ?_, (hmode ..).trans hm⟩
    rintro rfl
    cases c with
    | fg => simp [hfree hctx] at hk
    | isr => exact absurd rfl hdc

/-! ### The step -/

theorem cmdStep_yields {s : State} (hi : Inv s) : Yields (cmdStep s) fun t => AllAdmitted s → AllAdmitted t := by
  cases hk : s.cur with
  | none => simp [cmdStep, hk]
  | some k =>
    obtain ⟨i, hd, -, hu, -⟩ := sound_of_inv hi (c := s.ctx) hk
    rw [cmdStep_inFlight hk hd]
    refine (exec_yields hk hu).mono fun t hst ha => ?_
    obtain hst | hst := hst
    · exact ha.of_continues hst
    · exact ha.of_completesApart hi.handler_free hk hd hst

theorem takeTurn_yields {s : State} (hi : Inv s) (turn : Turn) :
    Yields (takeTurn turn s) fun t => AllAdmitted s → AllAdmitted t := by
  cases turn with
  | issue c w =>
    exact yields_iff.mpr ⟨fun _ => hostIssue_fault, fun t ht ha => hostIssue_allAdmitted hi.handler_free ha ht⟩
  | hostWrite a v => exact (hostWrite_continues a v s).mono fun _ hst ha => ha.of_continues hst
  | cmd => exact cmdStep_yields hi
  | utx => exact fun ha => ha.of_continues (utxStep_continues s)
  | urx o => exact fun ha => ha.of_continues (urxStep_continues o s)
  | spxMaster p => exact fun ha => ha.of_continues (spxMasterStep_continues p s)
  | spxSlave m => exact fun ha => ha.of_continues (spxSlaveStep_continues m s)
  | i2b r => exact fun ha => ha.of_continues (i2bStep_continues r s)
  | i2bDevice declines => exact fun ha => ha.of_continues (i2bDeviceStep_continues declines s)
  | irq src honoured => exact (irqStep_continues src honoured s).mono fun _ hst ha => ha.of_continues hst
  | powerOn => exact fun _ => powerOn_allAdmitted s

/-- The invariant does not speak of the schedule. -/
theorem inv_withTurns {s : State} (hi : Inv s) (turns : List Turn) : Inv { s with turns := turns } :=
  ⟨hi.mem, hi.eeprom, hi.handler_free, hi.foreground, hi.handler, hi.uart, hi.spi, hi.i2c⟩

/-- From a state of the invariant a step does not fault, and it keeps every command in flight admitted. -/
theorem step_yields {s : State} (hi : Inv s) : Yields (step s) fun t => AllAdmitted s → AllAdmitted t := by
  cases ht : s.turns with
  | nil => simp [step_nil ht]
  | cons turn rest =>
    rw [step_cons ht]
    exact (takeTurn_yields (inv_withTurns hi rest) turn).mono fun _ hst ha =>
      hst (ha.of_continues (.of_banks rfl rfl rfl rfl))

/-- Settles O53: `AllAdmitted` holds and every step keeps it; it is admission, read at the current context. -/
theorem commandsInFlightStayAdmitted : Obligations.CommandsInFlightStayAdmitted := by
  intro s hi
  obtain ⟨hfault, hkept⟩ := yields_iff.mp (step_yields hi)
  refine ⟨hfault, fun hadm => ?_⟩
  have ha : AllAdmitted s := allAdmitted_of_inv hi hadm
  exact ⟨fun k i hk hd => ha s.ctx k i hk hd, fun t ht k i hk hd => hkept t ht ha t.ctx k i hk hd⟩

end Sys2Proof.Proofs
end

section
/-!
PROOFS. What one micro-step of a command does to each part of the state (10_state.md), said once for all 24 commands: the
bank of its context, the three units, host memory. The statements of the family about single fields are read off it.
-/

namespace Sys2Proof.Proofs

open Sys2Proof Sys2Proof.Machine

/-! ### What holds of the next state, if the outcome is one -/

/-- A next state has the property; of a fault or a refusal nothing is said. -/
def Ensures (r : Result) (P : State → Prop) : Prop :=
  match r with
  | .next t => P t
  | .fault _ => True
  | .refused _ => True

section Ensures
variable {P : State → Prop} {r : Result} {s : State}

theorem ensures_iff : Ensures r P ↔ ∀ t, r = .next t → P t := by
  cases r <;> simp [Ensures]

theorem ensures_fault {f : Fault} : Ensures (.fault f) P := trivial

theorem ensures_refused {q : Refusal} : Ensures (.refused q) P := trivial

theorem ensures_require {c : Prop} [Decidable c] {q : Refusal} (h : c → Ensures r P) : Ensures (require c q r) P := by
  rw [ensures_iff]
  intro t ht
  obtain ⟨hc, ht⟩ := require_next.mp ht
  exact ensures_iff.mp (h hc) t ht

theorem ensures_holdUntil {c : Bool} (hheld : P s) (h : Ensures r P) : Ensures (holdUntil c s r) P := by
  rw [ensures_iff]
  intro t ht
  obtain ⟨-, ht⟩ | ⟨-, rfl⟩ := holdUntil_next.mp ht
  · exact ensures_iff.mp h t ht
  · exact hheld

/-- A micro-step runs its body with the command in flight, admitted if it is at u0. -/
theorem ensures_microStep {i : Instr} {body : InFlight → Result}
    (h : ∀ k, s.cur = some k → (k.uph = 0 → admission s i = none) → Ensures (body k) P) :
    Ensures (microStep i s body) P := by
  rw [ensures_iff]
  intro t ht
  obtain ⟨k, hk, ha, ht⟩ := microStep_next.mp ht
  exact ensures_iff.mp (h k hk ha) t ht

theorem ensures_loadByte {a : Nat} {body : Byte → Result} (h : a ≤ 0xFFFF → Ensures (body (s.readMem a)) P) :
    Ensures (loadByte a s body) P := ensures_require h

theorem ensures_storeByte {a : Nat} {v : Byte} {body : State → Result}
    (h : a ≤ 0xFFFF → Ensures (body (s.writeMem a v)) P) : Ensures (storeByte a v s body) P :=
  ensures_require fun ha => ensures_require fun _ => h ha

theorem ensures_i2cIssue {x : I2cOp} {body : State → Result}
    (h : s.i2c.en = true → Ensures (body { s with i2c := { s.i2c with op := some x, done := false } }) P) :
    Ensures (i2cIssue x s body) P :=
  ensures_require fun hen => ensures_require fun _ => h hen

theorem ensures_checkStatus {code : Byte} {k : InFlight} {n : Nat} (hok : P (s.goto k n))
    (herr : P (s.setRes Config.resError).complete) : Ensures (checkStatus code s k n) P := by
  unfold checkStatus
  split
  · exact hok
  · exact herr

end Ensures

/-! ### The units under a micro-step -/

/-- What a micro-step of the command `i` does to the UART (R132, R136, R139, R148). -/
inductive UartMove (i : Instr) (s : State) : Uart → Prop
  | kept : UartMove i s s.uart
  | sent (c : Byte) : UartMove i s (s.sendStep c).uart
  | received : UartMove i s s.recvStep.uart
  | configured {baud : BitVec 32} {par : BitVec 2} {d : BitVec 16} (safe : Byte) (wlen : BitVec 2) (txm rxm rate : Bool)
      (hpar : par ≠ 3) (hfirst : s.uart.inited = false) (hd : baudDivisor s.params.fClk baud.toNat = some d) :
      UartMove i s (s.uart.configured baud safe par wlen txm rxm rate d)
  | txSlot {k : InFlight} {reg : Bool} {fn : FnRef} (hi : i = .uartSetcb false reg fn) (hctx : s.ctx = .fg)
      (hk : s.cur = some k) (hu : k.uph = 0) : UartMove i s { s.uart with cbTx := slotValue reg fn }
  | rxSlot {k : InFlight} {reg : Bool} {fn : FnRef} (hi : i = .uartSetcb true reg fn) (hctx : s.ctx = .fg)
      (hk : s.cur = some k) (hu : k.uph = 0) : UartMove i s { s.uart with cbRx := slotValue reg fn }

/-- What a micro-step of the command `i` does to the SPI (R172, R173, R176, R178, R184). -/
inductive SpiMove (i : Instr) (s : State) : Spi → Prop
  | kept : SpiMove i s s.spi
  | put (c : Byte) : SpiMove i s (s.spiPut c).spi
  | got : SpiMove i s s.spiGet.spi
  | master (hfirst : s.spi.inited = false) : SpiMove i s (s.spi.configured s.params true).masterLines
  | slave (hfirst : s.spi.inited = false) : SpiMove i s (s.spi.configured s.params false).slaveLines
  | slot {k : InFlight} {reg : Bool} {fn : FnRef} (hi : i = .spiSetcb false reg fn) (hctx : s.ctx = .fg)
      (hk : s.cur = some k) (hu : k.uph = 0) : SpiMove i s { s.spi with cb := slotValue reg fn }

/-- What a micro-step does to the I2C unit (R202, R205, R216). -/
inductive I2cMove (s : State) : I2c → Prop
  | kept : I2cMove s s.i2c
  | issued (x : I2cOp) (b : Byte) (hen : s.i2c.en = true) : I2cMove s { s.i2c with dr := b, op := some x, done := false }
  | stopped : I2cMove s s.stopStep.i2c
  | setUp (tier : BitVec 2) (addr7 : BitVec 7) : I2cMove s (s.i2cSetup tier addr7).i2c

/-- A step stores at most one byte in host memory, at an address of it (R72, R73). -/
inductive MemMove (s : State) : Memory → Prop
  | kept : MemMove s s.mem
  | stored (a : Nat) (v : Byte) (ha : a ≤ 0xFFFF) : MemMove s (s.writeMem a v).mem

/-- `u` is `s` with a micro-step's work done, before the command in flight ends or goes on. -/
structure Works (i : Instr) (s u : State) : Prop where
  params : u.params = s.params
  ctx : u.ctx = s.ctx
  fg : u.fg = s.fg
  isr : u.isr = s.isr
  uart : UartMove i s u.uart
  spi : SpiMove i s u.spi
  i2c : I2cMove s u.i2c
  mem : MemMove s u.mem
  eep : u.dev.eep = s.dev.eep
  cbLog : u.cbLog = s.cbLog

namespace Works
variable {i : Instr} {s : State}

theorem banks {u : State} (h : Works i s u) (c : Ctx) : u.bank c = s.bank c := by
  cases c with
  | fg => exact h.fg
  | isr => exact h.isr

theorem nothing (i : Instr) (s : State) : Works i s s := ⟨rfl, rfl, rfl, rfl, .kept, .kept, .kept, .kept, rfl, rfl⟩

theorem onUart {u : Uart} (h : UartMove i s u) : Works i s { s with uart := u } :=
  ⟨rfl, rfl, rfl, rfl, h, .kept, .kept, .kept, rfl, rfl⟩

theorem onSpi {u : Spi} (h : SpiMove i s u) : Works i s { s with spi := u } :=
  ⟨rfl, rfl, rfl, rfl, .kept, h, .kept, .kept, rfl, rfl⟩

theorem onI2c {u : I2c} (h : I2cMove s u) : Works i s { s with i2c := u } :=
  ⟨rfl, rfl, rfl, rfl, .kept, .kept, h, .kept, rfl, rfl⟩

theorem onMem {a : Nat} (ha : a ≤ 0xFFFF) (v : Byte) : Works i s (s.writeMem a v) :=
  ⟨rfl, rfl, rfl, rfl, .kept, .kept, .kept, .stored a v ha, rfl, rfl⟩

theorem recv_stored {a : Nat} (ha : a ≤ 0xFFFF) (v : Byte) : Works i s (s.writeMem a v).recvStep :=
  ⟨rfl, rfl, rfl, rfl, .received, .kept, .kept, .stored a v ha, rfl, rfl⟩

theorem spiGet_stored {a : Nat} (ha : a ≤ 0xFFFF) (v : Byte) : Works i s (s.writeMem a v).spiGet :=
  ⟨rfl, rfl, rfl, rfl, .kept, .got, .kept, .stored a v ha, rfl, rfl⟩

theorem stopStep (i : Instr) (s : State) : Works i s s.stopStep :=
  ⟨rfl, rfl, rfl, rfl, .kept, .kept, .stopped, .kept, by simp only [State.stopStep]; split <;> rfl, rfl⟩

theorem i2cSetup (i : Instr) (s : State) (tier : BitVec 2) (addr7 : BitVec 7) : Works i s (s.i2cSetup tier addr7) :=
  ⟨rfl, rfl, rfl, rfl, .kept, .kept, .setUp tier addr7, .kept,
    by simp only [State.i2cSetup]; split <;> rfl, rfl⟩

end Works

/-! ### The whole micro-step -/

/-- The commands that return a byte (R21). -/
def returnsByte : Instr → Bool
  | .uartRecv | .spiRecv | .i2cRdack | .i2cRdnack | .i2cStatus => true
  | _ => false

/-- The commands that return a result (R22). -/
def returnsResult : Instr → Bool
  | .eeWrite _ _ | .eeRead _ _ => true
  | _ => false

/-- What a micro-step of the command `i` answers: it is held, or it does its work and the command goes on at another of its
micro-steps or completes, with a byte or a result where it returns one; `IRET` returns from the handler (R9, R25, R275). -/
inductive Micro (i : Instr) (s : State) : State → Prop
  | held : Micro i s s
  | completes {u : State} (hw : Works i s u) : Micro i s u.complete
  | goesOn {u : State} {k k' : InFlight} {n : Nat} (hw : Works i s u) (hk : s.cur = some k) (hword : k'.word = k.word)
      (hsp : k.sp ≤ pointerBound i k.uph → k'.sp ≤ pointerBound i n := by exact id)
      (hn : n < microSteps i := by simp [microSteps]) : Micro i s (u.goto k' n)
  | returns {u : State} (v : Byte) (hi : returnsByte i = true) (hw : Works i s u) : Micro i s (u.setRet v).complete
  | results {u : State} (v : BitVec 1) (hi : returnsResult i = true) (hw : Works i s u) : Micro i s (u.setRes v).complete
  | leaves (hctx : s.ctx = .isr) : Micro i s s.returnFromHandler

section Eeprom
variable {i : Instr} {s : State} {k : InFlight} {n : Nat}

theorem eepromIssue_micro (x : I2cOp) (hk : s.cur = some k)
    (hsp : k.sp ≤ pointerBound i k.uph → k.sp ≤ pointerBound i n := by exact id)
    (hn : n < microSteps i := by simp [microSteps]) : Ensures (eepromIssue x s k n) (Micro i s) :=
  ensures_i2cIssue fun hen => .goesOn (.onI2c (.issued x s.i2c.dr hen)) hk rfl hsp hn

theorem eepromSend_micro (b : Byte) (hk : s.cur = some k)
    (hsp : k.sp ≤ pointerBound i k.uph → k.sp ≤ pointerBound i n := by exact id)
    (hn : n < microSteps i := by simp [microSteps]) : Ensures (eepromSend b s k n) (Micro i s) :=
  ensures_i2cIssue fun hen => .goesOn (.onI2c (.issued .write b hen)) hk rfl hsp hn

theorem checkStatus_micro {u : State} (code : Byte) (hw : Works i s u) (hi : returnsResult i = true) (hk : s.cur = some k)
    (hsp : k.sp ≤ pointerBound i k.uph → k.sp ≤ pointerBound i n := by exact id)
    (hn : n < microSteps i := by simp [microSteps]) :
    Ensures (checkStatus code u k n) (Micro i s) :=
  ensures_checkStatus (.goesOn hw hk rfl hsp hn) (.results _ hi hw)

theorem eepromWait_micro (code : Byte) (hi : returnsResult i = true) (hk : s.cur = some k)
    (hsp : k.sp ≤ pointerBound i k.uph → k.sp ≤ pointerBound i n := by exact id)
    (hn : n < microSteps i := by simp [microSteps]) :
    Ensures (eepromWait code s k n) (Micro i s) :=
  ensures_holdUntil .held (checkStatus_micro code (.nothing i s) hi hk hsp hn)

theorem eepromFinish_micro (hi : returnsResult i = true) : Ensures (eepromFinish s) (Micro i s) :=
  .results _ hi (.stopStep i s)

end Eeprom

/-! ### One lemma per command -/

theorem ptr_in_range (ptr : Addr) : ptr.toNat ≤ 0x10000 := ptr.isLt.le

section Commands
variable (s : State)

theorem execIret_micro : Ensures (execIret s) (Micro .iret s) := by
  refine ensures_microStep fun k _ ha => ?_
  split
  · next hu =>
    obtain ⟨-, -, hmode⟩ := admission_none.mp (ha hu)
    exact .leaves (by simpa [modeRefusal] using hmode)
  · trivial

theorem execUartInit_micro (baud : BitVec 32) (safe : Byte) (par wlen : BitVec 2) (txm rxm rate : Bool) :
    Ensures (execUartInit baud safe par wlen txm rxm rate s) (Micro (.uartInit baud safe par wlen txm rxm rate) s) := by
  refine ensures_microStep fun k _ ha => ?_
  split
  · next hu =>
    obtain ⟨hwf, -, hmode⟩ := admission_none.mp (ha hu)
    obtain ⟨hpar, -⟩ : par ≠ 3 ∧ baud ≠ 0 := by simpa [Instr.wellFormed] using hwf
    have hfirst : s.uart.inited = false := by simpa [modeRefusal] using hmode
    split
    · trivial
    · next d hd => exact .completes (.onUart (.configured safe wlen txm rxm rate hpar hfirst hd))
  · trivial

theorem execUartSend_micro (b : Byte) : Ensures (execUartSend b s) (Micro (.uartSend b) s) := by
  refine ensures_microStep fun k _ _ => ?_
  split
  · exact ensures_holdUntil .held (.completes (.onUart (.sent b)))
  · trivial

theorem execUartRecv_micro : Ensures (execUartRecv s) (Micro .uartRecv s) := by
  refine ensures_microStep fun k _ _ => ?_
  split
  · exact ensures_holdUntil .held (.returns _ rfl (.onUart .received))
  · trivial

theorem execUartSends_micro (ptr : Addr) : Ensures (execUartSends ptr s) (Micro (.uartSends ptr) s) := by
  refine ensures_microStep fun k hk _ => ?_
  split
  · exact .goesOn (.nothing _ s) hk rfl fun _ => ptr_in_range ptr
  · exact ensures_loadByte fun ha => .goesOn (.nothing _ s) hk rfl fun _ => ha
  · next hu =>
    refine ensures_holdUntil .held ?_
    split
    · exact .completes (.onUart (.sent _))
    · exact .goesOn (.onUart (.sent _)) hk rfl fun h => Nat.succ_le_succ (by simpa [pointerBound, hu] using h)
  · trivial

theorem execUartRecvs_micro (ptr : Addr) : Ensures (execUartRecvs ptr s) (Micro (.uartRecvs ptr) s) := by
  refine ensures_microStep fun k hk _ => ?_
  split
  · exact ensures_holdUntil .held (.goesOn (.onUart .received) hk rfl fun _ => ptr_in_range ptr)
  · split
    · exact .goesOn (.nothing _ s) hk rfl
    · exact ensures_holdUntil .held (ensures_storeByte fun ha =>
        .goesOn (.recv_stored ha _) hk rfl fun _ => Nat.succ_le_succ ha)
  · exact ensures_storeByte fun ha => .completes (.onMem ha _)
  · trivial

/-- The callback commands are admitted in the foreground only (R134, R171). -/
theorem execUartSetcb_micro (dir reg : Bool) (fn : FnRef) :
    Ensures (execUartSetcb dir reg fn s) (Micro (.uartSetcb dir reg fn) s) := by
  refine ensures_microStep fun k hk ha => ?_
  split
  · next hu =>
    obtain ⟨-, -, hmode⟩ := admission_none.mp (ha hu)
    have hctx : s.ctx = .fg := by cases hc : s.ctx <;> simp [modeRefusal, hc] at hmode ⊢
    cases dir with
    | false => exact .completes (.onUart (.txSlot rfl hctx hk hu))
    | true => exact .completes (.onUart (.rxSlot rfl hctx hk hu))
  · trivial

theorem execSpiInitm_micro : Ensures (execSpiInitm s) (Micro .spiInitm s) := by
  refine ensures_microStep fun k _ ha => ?_
  split
  · next hu =>
    obtain ⟨-, -, hmode⟩ := admission_none.mp (ha hu)
    exact .completes (.onSpi (.master (by simpa [modeRefusal] using hmode)))
  · trivial

theorem execSpiInits_micro : Ensures (execSpiInits s) (Micro .spiInits s) := by
  refine ensures_microStep fun k _ ha => ?_
  split
  · next hu =>
    obtain ⟨-, -, hmode⟩ := admission_none.mp (ha hu)
    exact .completes (.onSpi (.slave (by simpa [modeRefusal] using hmode)))
  · trivial

theorem execSpiSend_micro (b : Byte) : Ensures (execSpiSend b s) (Micro (.spiSend b) s) := by
  refine ensures_microStep fun k hk _ => ?_
  split
  · exact .goesOn (.onSpi (.put b)) hk rfl
  · exact ensures_holdUntil .held (.completes (.nothing _ s))
  · trivial

theorem execSpiRecv_micro : Ensures (execSpiRecv s) (Micro .spiRecv s) := by
  refine ensures_microStep fun k _ _ => ?_
  split
  · exact ensures_holdUntil .held (.returns _ rfl (.onSpi .got))
  · trivial

theorem execSpiSends_micro (ptr : Addr) : Ensures (execSpiSends ptr s) (Micro (.spiSends ptr) s) := by
  refine ensures_microStep fun k hk _ => ?_
  split
  · exact .goesOn (.nothing _ s) hk rfl fun _ => ptr_in_range ptr
  · exact ensures_loadByte fun ha => .goesOn (.nothing _ s) hk rfl fun _ => ha
  · next hu => exact .goesOn (.onSpi (.put _)) hk rfl fun h => by simpa [pointerBound, hu] using h
  · next hu =>
    refine ensures_holdUntil .held ?_
    split
    · exact .completes (.nothing _ s)
    · exact .goesOn (.nothing _ s) hk rfl fun h => Nat.succ_le_succ (by simpa [pointerBound, hu] using h)
  · trivial

theorem execSpiRecvs_micro (ptr : Addr) : Ensures (execSpiRecvs ptr s) (Micro (.spiRecvs ptr) s) := by
  refine ensures_microStep fun k hk _ => ?_
  split
  · exact ensures_holdUntil .held (.goesOn (.onSpi .got) hk rfl fun _ => ptr_in_range ptr)
  · split
    · exact .goesOn (.nothing _ s) hk rfl
    · exact ensures_holdUntil .held (ensures_storeByte fun ha =>
        .goesOn (.spiGet_stored ha _) hk rfl fun _ => Nat.succ_le_succ ha)
  · exact ensures_storeByte fun ha => .completes (.onMem ha _)
  · trivial

theorem execSpiSetcb_micro (dir reg : Bool) (fn : FnRef) :
    Ensures (execSpiSetcb dir reg fn s) (Micro (.spiSetcb dir reg fn) s) := by
  refine ensures_microStep fun k hk ha => ?_
  split
  · next hu =>
    obtain ⟨hwf, -, hmode⟩ := admission_none.mp (ha hu)
    have hdir : dir = false := by simpa [Instr.wellFormed] using hwf
    have hctx : s.ctx = .fg := by cases hc : s.ctx <;> simp [modeRefusal, hc] at hmode ⊢
    exact .completes (.onSpi (.slot (by rw [hdir]) hctx hk hu))
  · trivial

theorem execI2cInit_micro (tier : BitVec 2) (addr7 : BitVec 7) :
    Ensures (execI2cInit tier addr7 s) (Micro (.i2cInit tier addr7) s) := by
  refine ensures_microStep fun k _ _ => ?_
  split
  · exact .completes (.i2cSetup _ s tier addr7)
  · trivial

theorem execI2cStart_micro : Ensures (execI2cStart s) (Micro .i2cStart s) := by
  refine ensures_microStep fun k hk _ => ?_
  split
  · exact ensures_i2cIssue fun hen => .goesOn (.onI2c (.issued .start s.i2c.dr hen)) hk rfl
  · exact ensures_holdUntil .held (.completes (.nothing _ s))
  · trivial

theorem execI2cWrite_micro (b : Byte) : Ensures (execI2cWrite b s) (Micro (.i2cWrite b) s) := by
  refine ensures_microStep fun k hk _ => ?_
  split
  · exact ensures_require fun _ => ensures_i2cIssue fun hen =>
      .goesOn (.onI2c (.issued .write b hen)) hk rfl
  · exact ensures_holdUntil .held (.completes (.nothing _ s))
  · trivial

theorem execI2cRdack_micro : Ensures (execI2cRdack s) (Micro .i2cRdack s) := by
  refine ensures_microStep fun k hk _ => ?_
  split
  · exact ensures_require fun _ => ensures_i2cIssue fun hen =>
      .goesOn (.onI2c (.issued .readAck s.i2c.dr hen)) hk rfl
  · exact ensures_holdUntil .held (.returns _ rfl (.nothing _ s))
  · trivial

theorem execI2cRdnack_micro : Ensures (execI2cRdnack s) (Micro .i2cRdnack s) := by
  refine ensures_microStep fun k hk _ => ?_
  split
  · exact ensures_require fun _ => ensures_i2cIssue fun hen =>
      .goesOn (.onI2c (.issued .readNack s.i2c.dr hen)) hk rfl
  · exact ensures_holdUntil .held (.returns _ rfl (.nothing _ s))
  · trivial

theorem execI2cStop_micro : Ensures (execI2cStop s) (Micro .i2cStop s) := by
  refine ensures_microStep fun k _ _ => ?_
  split
  · exact ensures_require fun _ => .completes (.stopStep _ s)
  · trivial

theorem execI2cStatus_micro : Ensures (execI2cStatus s) (Micro .i2cStatus s) := by
  refine ensures_microStep fun k _ _ => ?_
  split
  · exact .returns _ rfl (.nothing _ s)
  · trivial

theorem execEeInit_micro : Ensures (execEeInit s) (Micro .eeInit s) := by
  refine ensures_microStep fun k _ _ => ?_
  split
  · exact .completes (.i2cSetup _ s 1 s.params.eeLocalAddr)
  · trivial

theorem execEeWrite_micro (ea : EepromAddr) (data : Byte) :
    Ensures (execEeWrite ea data s) (Micro (.eeWrite ea data) s) := by
  refine ensures_microStep fun k hk _ => ?_
  split
  · exact eepromIssue_micro _ hk
  · exact eepromWait_micro _ rfl hk
  · exact eepromSend_micro _ hk
  · exact eepromWait_micro _ rfl hk
  · exact eepromSend_micro _ hk
  · exact eepromWait_micro _ rfl hk
  · exact eepromSend_micro _ hk
  · exact eepromWait_micro _ rfl hk
  · exact eepromFinish_micro rfl
  · trivial

theorem execEeRead_micro (ea : EepromAddr) (out : Addr) : Ensures (execEeRead ea out s) (Micro (.eeRead ea out) s) := by
  refine ensures_microStep fun k hk _ => ?_
  split
  · exact eepromIssue_micro _ hk
  · exact eepromWait_micro _ rfl hk
  · exact eepromSend_micro _ hk
  · exact eepromWait_micro _ rfl hk
  · exact eepromSend_micro _ hk
  · exact eepromWait_micro _ rfl hk
  · exact eepromIssue_micro _ hk
  · exact eepromWait_micro _ rfl hk
  · exact eepromSend_micro _ hk
  · exact eepromWait_micro _ rfl hk
  · exact eepromIssue_micro _ hk
  · exact ensures_holdUntil .held (ensures_storeByte fun ha =>
      checkStatus_micro _ (.onMem ha _) rfl hk)
  · exact eepromFinish_micro rfl
  · trivial

end Commands

/-- Every micro-step that answers a next state, whatever the command. -/
theorem exec_micro (i : Instr) (s : State) : Ensures (exec i s) (Micro i s) := by
  cases i with
  | iret => exact execIret_micro s
  | uartInit baud safe par wlen txm rxm rate => exact execUartInit_micro s baud safe par wlen txm rxm rate
  | uartSend b => exact execUartSend_micro s b
  | uartRecv => exact execUartRecv_micro s
  | uartSends ptr => exact execUartSends_micro s ptr
  | uartRecvs ptr => exact execUartRecvs_micro s ptr
  | uartSetcb dir reg fn => exact execUartSetcb_micro s dir reg fn
  | spiInitm => exact execSpiInitm_micro s
  | spiInits => exact execSpiInits_micro s
  | spiSend b => exact execSpiSend_micro s b
  | spiRecv => exact execSpiRecv_micro s
  | spiSends ptr => exact execSpiSends_micro s ptr
  | spiRecvs ptr => exact execSpiRecvs_micro s ptr
  | spiSetcb dir reg fn => exact execSpiSetcb_micro s dir reg fn
  | i2cInit tier addr7 => exact execI2cInit_micro s tier addr7
  | i2cStart => exact execI2cStart_micro s
  | i2cWrite b => exact execI2cWrite_micro s b
  | i2cRdack => exact execI2cRdack_micro s
  | i2cRdnack => exact execI2cRdnack_micro s
  | i2cStop => exact execI2cStop_micro s
  | i2cStatus => exact execI2cStatus_micro s
  | eeInit => exact execEeInit_micro s
  | eeWrite ea data => exact execEeWrite_micro s ea data
  | eeRead ea out => exact execEeRead_micro s ea out

end Sys2Proof.Proofs
end

section
/-!
PROOFS. What one step of the machine does, agent by agent (00_scope.md rule R6), and the statements of the family of
10_state.md: the invariant, the suspended foreground, the configuration, the callback slots, the result registers, the
histories, and the state on leaving reset.
-/

namespace Sys2Proof.Proofs

open Sys2Proof Sys2Proof.Machine

/-! ### The result registers (R20 to R22) -/

/-- The end of a micro-step leaves the results of both contexts. -/
theorem setCur_ret (s : State) (k : Option InFlight) (c : Ctx) : ((s.setCur k).bank c).ret = (s.bank c).ret := by
  rw [State.setCur_bank]
  split <;> rfl

theorem setCur_res (s : State) (k : Option InFlight) (c : Ctx) : ((s.setCur k).bank c).res = (s.bank c).res := by
  rw [State.setCur_bank]
  split <;> rfl

theorem setRet_res (s : State) (v : Byte) (c : Ctx) : ((s.setRet v).bank c).res = (s.bank c).res := by
  rw [State.setRet_bank]
  split <;> rfl

theorem setRes_ret (s : State) (v : BitVec 1) (c : Ctx) : ((s.setRes v).bank c).ret = (s.bank c).ret := by
  rw [State.setRes_bank]
  split <;> rfl

namespace Micro
variable {i : Instr} {s t : State}

/-- A micro-step leaves the bank of the other context alone. -/
theorem others (h : Micro i s t) {c : Ctx} (hc : c ≠ s.ctx) : t.bank c = s.bank c := by
  have hset : ∀ (u : State) (k : Option InFlight), u.ctx = s.ctx → (u.setCur k).bank c = u.bank c := fun u k hu => by
    rw [State.setCur_bank, if_neg (hu ▸ hc)]
  cases h with
  | held => rfl
  | completes hw => exact (hset _ _ hw.ctx).trans (hw.banks c)
  | goesOn hw => exact (hset _ _ hw.ctx).trans (hw.banks c)
  | returns v _ hw =>
    rw [State.complete, hset _ _ (by simp [hw.ctx]), State.setRet_bank, hw.ctx, if_neg hc, hw.banks]
  | results v _ hw =>
    rw [State.complete, hset _ _ (by simp [hw.ctx]), State.setRes_bank, hw.ctx, if_neg hc, hw.banks]
  | leaves => exact hset s none rfl

/-- `RET` is written by the commands that return a byte only (R21). -/
theorem ret (h : Micro i s t) (c : Ctx) : (t.bank c).ret = (s.bank c).ret ∨ returnsByte i = true := by
  cases h with
  | held => exact .inl rfl
  | completes hw => exact .inl (by rw [State.complete, setCur_ret, hw.banks])
  | goesOn hw => exact .inl (by rw [State.goto, setCur_ret, hw.banks])
  | returns _ hi => exact .inr hi
  | results _ _ hw => exact .inl (by rw [State.complete, setCur_ret, setRes_ret, hw.banks])
  | leaves => exact .inl (setCur_ret s none c)

/-- `RES` is written by the commands that return a result only, as they complete (R22). -/
theorem res (h : Micro i s t) (c : Ctx) :
    (t.bank c).res = (s.bank c).res ∨ returnsResult i = true ∧ (t.bank s.ctx).cur = none := by
  cases h with
  | held => exact .inl rfl
  | completes hw => exact .inl (by rw [State.complete, setCur_res, hw.banks])
  | goesOn hw => exact .inl (by rw [State.goto, setCur_res, hw.banks])
  | returns _ _ hw => exact .inl (by rw [State.complete, setCur_res, setRet_res, hw.banks])
  | @results u v hi hw =>
    have hctx : (u.setRes v).ctx = s.ctx := by rw [State.setRes_ctx, hw.ctx]
    exact .inr ⟨hi, hctx ▸ bank_complete_cur (u.setRes v)⟩
  | leaves => exact .inl (setCur_res s none c)

end Micro

/-- The five commands that return a byte, by their mnemonics (R21, R110). -/
theorem returnsByte_mnemonic {i : Instr} (h : returnsByte i = true) :
    (rowOf i).mnemonic ∈ ["UART_RECV", "SPI_RECV", "I2C_RDACK", "I2C_RDNACK", "I2C_STATUS"] := by
  cases i with
  | uartRecv | spiRecv | i2cRdack | i2cRdnack | i2cStatus => simp [rowOf]
  | _ => cases h

/-- The two commands that return a result, by their mnemonics (R22, R110). -/
theorem returnsResult_mnemonic {i : Instr} (h : returnsResult i = true) :
    (rowOf i).mnemonic ∈ ["EE_WRITE", "EE_READ"] := by
  cases i with
  | eeWrite | eeRead => simp [rowOf]
  | _ => cases h

/-- Settles O57: a bank that a micro-step writes is its own context's, and the command is one that returns. -/
theorem resultRegisterWriters : Obligations.ResultRegisterWriters := by
  intro i s t h c
  have hm : Micro i s t := ensures_iff.mp (exec_micro i s) t h
  by_cases hc : c = s.ctx
  · subst hc
    refine ⟨fun hret => ⟨rfl, ?_⟩, fun hres => ⟨rfl, ?_⟩⟩
    · exact returnsByte_mnemonic ((hm.ret s.ctx).resolve_left hret)
    · obtain ⟨hi, hcur⟩ := (hm.res s.ctx).resolve_left hres
      exact ⟨returnsResult_mnemonic hi, hcur⟩
  · have hkept := hm.others hc
    exact ⟨fun hret => absurd (congrArg Bank.ret hkept) hret, fun hres => absurd (congrArg Bank.res hkept) hres⟩

/-! ### The units under the other agents -/

/-- What UTX and URX do to the UART (R150 to R152). -/
inductive LineMove (u : Uart) : Uart → Prop
  | kept : LineMove u u
  | framed (f : TxFrame) : LineMove u { u with txline := u.txline ++ [f], txe := true }
  | accepted (d : Byte) (p stop : Bool) (r : RxRecord) (hv : u.verdict = .accepted) :
      LineMove u { u with
        rxd := d &&& u.mask
        pe := parityError u.par (d &&& u.mask) (wordLength u.wlen) p
        fe := framingError stop
        rxc := true
        rxlog := u.rxlog ++ [r] }
  | noted (r : RxRecord) : LineMove u { u with rxlog := u.rxlog ++ [r] }

/-- What SPX does to the SPI (R186, R187). -/
inductive WireMove (u : Spi) : Spi → Prop
  | kept : WireMove u u
  | master (e : SpiExchange) (b : Byte) (hen : u.en = true) :
      WireMove u { u with wire := u.wire ++ [e], dr := b, busy := false, tc := true }
  | slave (e : SpiExchange) (b : Byte) (hen : u.en = true) (hslave : u.mstr = false) :
      WireMove u { u with wire := u.wire ++ [e], dr := b, tc := true }

/-- What I2B does to the I2C unit: it ends a pending start, byte or read, or fails it (R222 to R226). -/
inductive BusMove (u : I2c) : I2c → Prop
  | kept : BusMove u u
  | started (code : BitVec 5) (e : BusEvent) (hop : u.op ≠ none) :
      BusMove u { u.ended code .addr [e] with owned := true }
  | advanced (code : BitVec 5) {ph : I2cPhase} (e : BusEvent) (b : Byte) (hop : u.op ≠ none)
      (hfrom : u.ph ≠ .idle ∧ u.ph ≠ .fail) (hto : ph ≠ .idle) :
      BusMove u { u.ended code ph [e] with dr := b }
  | failed (code : BitVec 5) {ev : List BusEvent} (b : Byte) (hop : u.op ≠ none) (hev : ev.length ≤ 1) :
      BusMove u { u.ended code .fail ev with dr := b }

/-- What the answer of the reference device does to its memory (R254). -/
inductive EepMove (d : Device) : Memory → Prop
  | kept : EepMove d d.eep
  | stored (b : Byte) : EepMove d (Memory.write Config.eeBlank d.eep d.dptr.toNat b)
  | unspecified (k : Nat) : EepMove d (Device.unspecified k).eep

theorem utxStep_line (s : State) : ∃ u, utxStep s = { s with uart := u } ∧ LineMove s.uart u := by
  unfold utxStep
  split
  · exact ⟨_, rfl, .framed _⟩
  · exact ⟨_, rfl, .kept⟩

theorem receiveFrame_line (s : State) (d : Byte) (p stop : Bool) :
    ∃ u, s.receiveFrame d p stop = { s with uart := u } ∧ LineMove s.uart u := by
  unfold State.receiveFrame
  cases hv : s.uart.verdict with
  | accepted => exact ⟨_, rfl, .accepted d p stop _ hv⟩
  | dropped => exact ⟨_, rfl, .noted _⟩
  | ignored => exact ⟨_, rfl, .noted _⟩

theorem urxStep_line (o : Offer) (s : State) :
    ∃ u n, urxStep o s = { s with uart := u, looped := n } ∧ LineMove s.uart u := by
  unfold urxStep
  split
  · exact ⟨_, _, rfl, .kept⟩
  · next d p stop _ =>
    obtain ⟨u, hu, hline⟩ := receiveFrame_line s d p stop
    rw [hu]
    cases o <;> exact ⟨u, _, rfl, hline⟩

theorem spxMasterStep_wire (p : Peer) (s : State) :
    ∃ u, spxMasterStep p s = { s with spi := u } ∧ WireMove s.spi u := by
  unfold spxMasterStep
  split
  · next h => exact ⟨_, rfl, .master _ _ h.1⟩
  · exact ⟨_, rfl, .kept⟩

theorem spxSlaveStep_wire (m : Byte) (s : State) : ∃ u, spxSlaveStep m s = { s with spi := u } ∧ WireMove s.spi u := by
  unfold spxSlaveStep
  split
  · next h => exact ⟨_, rfl, .slave _ _ h.1 h.2⟩
  · exact ⟨_, rfl, .kept⟩

theorem i2bRead_bus (more : Bool) (r : BusReply) (s : State) (hop : s.i2c.op ≠ none) (hph : s.i2c.ph = .mr) :
    ∃ u n, i2bRead more r s = { s with i2c := u, draws := n } ∧ BusMove s.i2c u := by
  have hto : (if more then I2cPhase.mr else .mrEnd) ≠ .idle := by split <;> simp
  cases r with
  | ok v => exact ⟨_, _, rfl, .advanced _ _ v hop (by simp [hph]) hto⟩
  | nack => exact ⟨_, _, rfl, .kept⟩
  | fault => exact ⟨_, _, rfl, .failed _ (Config.drawByte s.draws) hop (by simp)⟩

/-- I2B writes the unit and counts the values it draws, and nothing else (R220). -/
theorem i2bStep_bus (r : BusReply) (s : State) :
    ∃ u n, i2bStep r s = { s with i2c := u, draws := n } ∧ BusMove s.i2c u := by
  unfold i2bStep
  split
  · next hop =>
    have hop : s.i2c.op ≠ none := by simp [hop]
    cases r with
    | ok v => exact ⟨_, _, rfl, .started _ _ hop⟩
    | nack => exact ⟨_, _, rfl, .kept⟩
    | fault => exact ⟨_, _, rfl, .failed _ s.i2c.dr hop (by simp)⟩
  · next hop hph =>
    have hop : s.i2c.op ≠ none := by simp [hop]
    have hto : (if s.i2c.dr.getLsbD 0 then I2cPhase.mr else .mt) ≠ .idle := by split <;> simp
    cases r with
    | ok v => exact ⟨_, _, rfl, .advanced _ _ s.i2c.dr hop (by simp [hph]) hto⟩
    | nack => exact ⟨_, _, rfl, .failed _ s.i2c.dr hop (by simp)⟩
    | fault => exact ⟨_, _, rfl, .failed _ s.i2c.dr hop (by simp)⟩
  · next hop hph =>
    have hop : s.i2c.op ≠ none := by simp [hop]
    cases r with
    | ok v => exact ⟨_, _, rfl, .advanced _ _ s.i2c.dr hop (by simp [hph]) (by simp)⟩
    | nack => exact ⟨_, _, rfl, .failed _ s.i2c.dr hop (by simp)⟩
    | fault => exact ⟨_, _, rfl, .failed _ s.i2c.dr hop (by simp)⟩
  · next hop hph => exact i2bRead_bus true r s (by simp [hop]) hph
  · next hop hph => exact i2bRead_bus false r s (by simp [hop]) hph
  · exact ⟨_, _, rfl, .kept⟩

/-- The device changes its memory at a data byte only. -/
theorem deviceReply_eep (s : State) (declines : Bool) : EepMove s.dev (s.deviceReply declines).2.eep := by
  unfold State.deviceReply
  split
  · exact .kept
  · unfold Device.onAddress
    split
    · split
      · exact .kept
      · split <;> exact .kept
    all_goals exact .kept
  · unfold Device.onData
    split
    · exact .kept
    · split
      · exact .unspecified _
      · exact .stored _
    all_goals exact .kept
  · unfold Device.onRead
    split <;> exact .kept
  · unfold Device.onRead
    split <;> exact .kept
  · exact .kept

/-! ### One step -/

/-- The UART under a step: a micro-step of the command in flight, or UTX or URX. -/
inductive UartStep (s : State) : Uart → Prop
  | command {k : InFlight} {i : Instr} {u : Uart} (hk : s.cur = some k) (hd : decode k.word = .ok i) (h : UartMove i s u) :
      UartStep s u
  | line {u : Uart} (h : LineMove s.uart u) : UartStep s u

/-- The SPI under a step: a micro-step of the command in flight, or SPX. -/
inductive SpiStep (s : State) : Spi → Prop
  | command {k : InFlight} {i : Instr} {u : Spi} (hk : s.cur = some k) (hd : decode k.word = .ok i) (h : SpiMove i s u) :
      SpiStep s u
  | wire {u : Spi} (h : WireMove s.spi u) : SpiStep s u

/-- The I2C unit under a step: a micro-step of the command in flight, or I2B. -/
inductive I2cStep (s : State) : I2c → Prop
  | command {u : I2c} (h : I2cMove s u) : I2cStep s u
  | bus {u : I2c} (h : BusMove s.i2c u) : I2cStep s u

/-- A history grows by at most one entry (R51). -/
def Grows {α : Type} (l l' : List α) : Prop := ∃ e, l' = l ++ e ∧ e.length ≤ 1

theorem Grows.refl {α : Type} (l : List α) : Grows l l := ⟨[], by simp⟩

theorem Grows.one {α : Type} (l : List α) (e : α) : Grows l (l ++ [e]) := ⟨[e], rfl, by simp⟩

/-- Every command in flight is a legal command at one of its micro-steps (R24, R25). -/
def AllSound (s : State) : Prop := ∀ c k, (s.bank c).cur = some k → k.sound

/-- In the foreground no handler's command is in flight (R24). -/
def HandlerFree (s : State) : Prop := s.ctx = .fg → s.isr.cur = none

/-- What every step but the power-on reset does to each part of the state. -/
structure Moves (s t : State) : Prop where
  params : t.params = s.params
  others : ∀ c, c ≠ s.ctx → t.bank c = s.bank c
  sound : AllSound s → AllSound t
  handler_free : HandlerFree s → HandlerFree t
  uart : UartStep s t.uart
  spi : SpiStep s t.spi
  i2c : I2cStep s t.i2c
  mem : MemMove s t.mem
  eep : EepMove s.dev t.dev.eep
  cbLog : Grows s.cbLog t.cbLog

/-! ### CMD -/

theorem Micro.sound {i : Instr} {k : InFlight} {s t : State} (hk : s.cur = some k) (hd : decode k.word = .ok i)
    (h : Micro i s t) (hs : AllSound s) : AllSound t := by
  intro c l hl
  by_cases hc : c = s.ctx
  · subst hc
    cases h with
    | held => exact hs _ l hl
    | @completes u hw =>
      rw [← hw.ctx, bank_complete_cur] at hl
      cases hl
    | @goesOn u k₀ k' n hw hk₀ hword hsp hn =>
      rw [State.goto, State.setCur_bank, if_pos hw.ctx.symm] at hl
      obtain rfl : k₀ = k := by simpa [hk₀] using hk
      obtain ⟨j, hj, hwf, -, hptr⟩ := hs s.ctx k₀ hk
      obtain rfl : j = i := by simpa [hj] using hd
      cases hl
      exact ⟨j, hword ▸ hj, hwf, hn, hsp hptr⟩
    | @returns u v _ hw =>
      rw [← hw.ctx, ← State.setRet_ctx u v, bank_complete_cur] at hl
      cases hl
    | @results u v _ hw =>
      rw [← hw.ctx, ← State.setRes_ctx u v, bank_complete_cur] at hl
      cases hl
    | leaves =>
      have hfree : (s.returnFromHandler.bank s.ctx).cur = none := bank_complete_cur s
      rw [hfree] at hl
      cases hl
  · rw [h.others hc] at hl
    exact hs c l hl

/-- Only `IRET` changes the context, and it frees the handler's (R275). -/
theorem Micro.handlerFree {i : Instr} {s t : State} (h : Micro i s t) (hs : HandlerFree s) : HandlerFree t := by
  have hkept (hctx : t.ctx = s.ctx) : HandlerFree t := fun hfg => by
    have hfg : s.ctx = .fg := hctx ▸ hfg
    have hisr : t.isr = s.isr := h.others (c := .isr) (by simp [hfg])
    rw [hisr, hs hfg]
  cases h with
  | held => exact hs
  | completes hw => exact hkept (by simp [hw.ctx])
  | goesOn hw => exact hkept (by simp [hw.ctx])
  | returns _ _ hw => exact hkept (by simp [hw.ctx])
  | results _ _ hw => exact hkept (by simp [hw.ctx])
  | leaves hctx =>
    intro _
    have hfree : (s.complete.bank s.ctx).cur = none := bank_complete_cur s
    rw [hctx] at hfree
    exact hfree

/-- The end of a micro-step writes no unit and no memory. -/
theorem Micro.works {i : Instr} {s t : State} (h : Micro i s t) :
    ∃ u, Works i s u ∧ t.params = u.params ∧ t.uart = u.uart ∧ t.spi = u.spi ∧ t.i2c = u.i2c ∧ t.mem = u.mem ∧
      t.dev = u.dev ∧ t.cbLog = u.cbLog := by
  cases h with
  | held => exact ⟨s, .nothing i s, by simp⟩
  | completes hw => exact ⟨_, hw, by simp⟩
  | goesOn hw => exact ⟨_, hw, by simp⟩
  | returns _ _ hw => exact ⟨_, hw, by simp⟩
  | results _ _ hw => exact ⟨_, hw, by simp⟩
  | leaves => exact ⟨s, .nothing i s, by simp⟩

theorem Micro.moves {i : Instr} {k : InFlight} {s t : State} (hk : s.cur = some k) (hd : decode k.word = .ok i)
    (h : Micro i s t) : Moves s t := by
  obtain ⟨u, hw, hparams, huart, hspi, hi2c, hmem, hdev, hlog⟩ := h.works
  exact {
    params := hparams.trans hw.params
    others := fun _ => h.others
    sound := h.sound hk hd
    handler_free := h.handlerFree
    uart := .command hk hd (huart ▸ hw.uart)
    spi := .command hk hd (hspi ▸ hw.spi)
    i2c := .command (hi2c ▸ hw.i2c)
    mem := hmem ▸ hw.mem
    eep := by rw [hdev, hw.eep]; exact .kept
    cbLog := by rw [hlog, hw.cbLog]; exact .refl _ }

/-! ### The other agents -/

/-- An agent that writes no bank, and leaves the context or enters the handler. -/
theorem Moves.of_agent {s t : State} (hparams : t.params = s.params) (hfg : t.fg = s.fg) (hisr : t.isr = s.isr)
    (hctx : t.ctx = s.ctx ∨ t.ctx = .isr) (hu : LineMove s.uart t.uart) (hs : WireMove s.spi t.spi)
    (hi : BusMove s.i2c t.i2c) (hm : MemMove s t.mem) (he : EepMove s.dev t.dev.eep) (hl : Grows s.cbLog t.cbLog) :
    Moves s t := by
  have hbank : ∀ c, t.bank c = s.bank c := fun c => by cases c <;> assumption
  refine ⟨hparams, fun c _ => hbank c, fun h c k hk => h c k (hbank c ▸ hk), fun h hc => ?_, .line hu, .wire hs, .bus hi,
    hm, he, hl⟩
  obtain hctx | hctx := hctx
  · rw [hisr, h (hctx ▸ hc)]
  · simp [hctx] at hc

theorem Moves.refl (s : State) : Moves s s :=
  .of_agent rfl rfl rfl (.inl rfl) .kept .kept .kept .kept .kept (.refl _)

theorem microSteps_pos (i : Instr) : 0 < microSteps i := by cases i <;> simp [microSteps]

theorem issued_sound {w : Word} {i : Instr} (h : legalCommand w = some i) : (InFlight.issued w).sound := by
  obtain ⟨hd, hwf⟩ := legalCommand_eq_some.mp h
  exact ⟨i, hd, hwf, microSteps_pos i, Nat.zero_le _⟩

/-- HOST's issue writes the bank of the current context (R24, R280). -/
theorem hostIssue_moves (c : Ctx) (w : Word) (s : State) : Ensures (hostIssue c w s) (Moves s) := by
  rw [ensures_iff]
  intro t ht
  obtain ⟨rfl, -, i, hlegal, -, rfl⟩ := hostIssue_next.mp ht
  refine ⟨by simp, fun c hc => State.bank_setBank_other _ _ _ _ hc, fun hs c k hk => ?_, fun hs hfg => ?_,
    .line (by rw [State.setBank_uart]; exact .kept), .wire (by rw [State.setBank_spi]; exact .kept),
    .bus (by rw [State.setBank_i2c]; exact .kept), by rw [State.setBank_mem]; exact .kept,
    by rw [State.setBank_dev]; exact .kept, by rw [State.setBank_cbLog]; exact .refl _⟩
  · by_cases hc : c = s.ctx
    · subst hc
      rw [State.bank_setBank_self] at hk
      cases hk
      exact issued_sound hlegal
    · rw [State.bank_setBank_other _ _ _ _ hc] at hk
      exact hs c k hk
  · rw [State.setBank_ctx] at hfg
    rw [hfg]
    exact hs hfg

theorem hostWrite_moves (a : Addr) (v : Byte) (s : State) : Ensures (hostWrite a v s) (Moves s) :=
  ensures_require fun _ =>
    .of_agent rfl rfl rfl (.inl rfl) .kept .kept .kept (.stored _ v (by have := a.isLt; omega)) .kept (.refl _)

theorem cmdStep_moves (s : State) : Ensures (cmdStep s) (Moves s) := by
  unfold cmdStep
  split
  · exact Moves.refl s
  · next k hk =>
    split
    · trivial
    · next i hd =>
      rw [ensures_iff]
      exact fun t ht => (ensures_iff.mp (exec_micro i s) t ht).moves hk hd

theorem irqStep_moves (src : IrqSource) (honoured : Bool) (s : State) : Ensures (irqStep src honoured s) (Moves s) := by
  unfold irqStep
  split
  · rw [ensures_iff]
    intro t ht
    obtain ⟨-, rfl⟩ | ⟨f, -, -, rfl⟩ := takeInterrupt_next.mp ht
    · exact .of_agent rfl rfl rfl (.inl rfl) .kept .kept .kept .kept .kept (.one _ _)
    · exact .of_agent rfl rfl rfl (.inr rfl) .kept .kept .kept .kept .kept (.one _ _)
  · exact Moves.refl s

theorem i2bDeviceStep_moves (declines : Bool) (s : State) : Moves s (i2bDeviceStep declines s) := by
  unfold i2bDeviceStep
  split
  · exact .refl s
  · obtain ⟨u, n, hu, hbus⟩ := i2bStep_bus (s.deviceReply declines).1
      { s with dev := (s.deviceReply declines).2, draws := s.draws + 1 }
    rw [hu]
    exact .of_agent rfl rfl rfl (.inl rfl) .kept .kept hbus .kept (deviceReply_eep s declines) (.refl _)

/-- Every turn but the power-on reset, agent by agent (R6). -/
theorem takeTurn_moves {turn : Turn} (hturn : turn ≠ .powerOn) (s : State) : Ensures (takeTurn turn s) (Moves s) := by
  cases turn with
  | issue c w => exact hostIssue_moves c w s
  | hostWrite a v => exact hostWrite_moves a v s
  | cmd => exact cmdStep_moves s
  | utx =>
    obtain ⟨u, hu, hline⟩ := utxStep_line s
    rw [takeTurn, hu]
    exact Moves.of_agent rfl rfl rfl (.inl rfl) hline .kept .kept .kept .kept (.refl _)
  | urx o =>
    obtain ⟨u, n, hu, hline⟩ := urxStep_line o s
    rw [takeTurn, hu]
    exact Moves.of_agent rfl rfl rfl (.inl rfl) hline .kept .kept .kept .kept (.refl _)
  | spxMaster p =>
    obtain ⟨u, hu, hwire⟩ := spxMasterStep_wire p s
    rw [takeTurn, hu]
    exact Moves.of_agent rfl rfl rfl (.inl rfl) .kept hwire .kept .kept .kept (.refl _)
  | spxSlave m =>
    obtain ⟨u, hu, hwire⟩ := spxSlaveStep_wire m s
    rw [takeTurn, hu]
    exact Moves.of_agent rfl rfl rfl (.inl rfl) .kept hwire .kept .kept .kept (.refl _)
  | i2b r =>
    obtain ⟨u, n, hu, hbus⟩ := i2bStep_bus r s
    rw [takeTurn, hu]
    exact Moves.of_agent rfl rfl rfl (.inl rfl) .kept .kept hbus .kept .kept (.refl _)
  | i2bDevice declines => exact i2bDeviceStep_moves declines s
  | irq src honoured => exact irqStep_moves src honoured s
  | powerOn => exact absurd rfl hturn

/-- A step without the power-on reset; it starts from the state without the turn it takes. -/
theorem step_moves {s t : State} (h : step s = .next t) (hp : s.turns.head? ≠ some .powerOn) :
    ∃ turns, Moves { s with turns := turns } t := by
  cases hl : s.turns with
  | nil =>
    rw [step_nil hl] at h
    cases h
    exact ⟨[], turns_restored hl ▸ Moves.refl s⟩
  | cons turn rest =>
    rw [step_cons hl] at h
    have hturn : turn ≠ .powerOn := fun e => hp (by rw [hl, e]; rfl)
    exact ⟨rest, ensures_iff.mp (takeTurn_moves hturn _) t h⟩

end Sys2Proof.Proofs
end

section
/-!
PROOFS. The statements of the family of 10_state.md about a whole step, each read off what a step does to the unit that it
speaks of.
-/

namespace Sys2Proof.Proofs

open Sys2Proof Sys2Proof.Machine

/-! ### The suspended foreground (R24, R271, R272) -/

/-- Settles O14: a step writes no bank but the current context's, and that is the handler's. -/
theorem foregroundIsSuspended : Obligations.ForegroundIsSuspended := by
  intro s t hctx hp h
  obtain ⟨turns, hm⟩ := step_moves h hp
  exact hm.others .fg (by simp [hctx])

/-! ### The configuration (R27 to R29, R33 to R35) -/

/-- `v` is initialised with the configuration and the enables of `u`. -/
def SameUartConfig (u v : Uart) : Prop :=
  v.inited = true ∧ v.rate = u.rate ∧ v.txm = u.txm ∧ v.rxm = u.rxm ∧ v.par = u.par ∧ v.baud = u.baud ∧ v.safe = u.safe ∧
    v.wlen = u.wlen ∧ v.divh = u.divh ∧ v.divl = u.divl ∧ v.txen = u.txen ∧ v.rxen = u.rxen ∧ v.txie = u.txie ∧
    v.rxie = u.rxie

/-- `v` is initialised with the role, the constants and the lines of `u`. -/
def SameSpiConfig (u v : Spi) : Prop :=
  v.inited = true ∧ v.en = u.en ∧ v.mstr = u.mstr ∧ v.ie = u.ie ∧ v.dord = u.dord ∧ v.cpol = u.cpol ∧ v.x2 = u.x2 ∧
    v.clkdiv = u.clkdiv ∧ v.dirCs = u.dirCs ∧ v.dirCk = u.dirCk ∧ v.dirMo = u.dirMo ∧ v.dirSo = u.dirSo

/-- The one init that stores a configuration is refused in an initialised unit (R131). -/
theorem UartMove.config {i : Instr} {s : State} {u : Uart} (h : UartMove i s u) (hin : s.uart.inited = true) :
    SameUartConfig s.uart u := by
  cases h with
  | configured _ _ _ _ _ _ hfirst => simp [hfirst] at hin
  | _ => simp [SameUartConfig, hin]

theorem LineMove.config {u v : Uart} (h : LineMove u v) (hin : u.inited = true) : SameUartConfig u v := by
  cases h <;> simp [SameUartConfig, hin]

/-- The two inits that store a configuration are refused in an initialised unit (R171). -/
theorem SpiMove.config {i : Instr} {s : State} {u : Spi} (h : SpiMove i s u) (hin : s.spi.inited = true) :
    SameSpiConfig s.spi u := by
  cases h with
  | master hfirst | slave hfirst => simp [hfirst] at hin
  | _ => simp [SameSpiConfig, hin]

theorem WireMove.config {u v : Spi} (h : WireMove u v) (hin : u.inited = true) : SameSpiConfig u v := by
  cases h <;> simp [SameSpiConfig, hin]

/-- Settles O55: the command in flight and the agents keep the configuration of an initialised unit. -/
theorem configurationIsImmutable : Obligations.ConfigurationIsImmutable := by
  intro s t h hp
  obtain ⟨turns, hm⟩ := step_moves h hp
  refine ⟨fun hin => ?_, fun hin => ?_⟩
  · show SameUartConfig s.uart t.uart
    cases hm.uart with
    | command _ _ hmove => exact hmove.config hin
    | line hmove => exact hmove.config hin
  · show SameSpiConfig s.spi t.spi
    cases hm.spi with
    | command _ _ hmove => exact hmove.config hin
    | wire hmove => exact hmove.config hin

/-! ### The callback slots (R48, R91) -/

theorem LineMove.slots {u v : Uart} (h : LineMove u v) : v.cbTx = u.cbTx ∧ v.cbRx = u.cbRx := by
  cases h <;> simp

theorem WireMove.slot {u v : Spi} (h : WireMove u v) : v.cb = u.cb := by
  cases h <;> rfl

/-- The command `i` is in flight at u0 in the foreground. -/
def WritesSlot (s : State) (i : Instr) : Prop :=
  ∃ k, s.ctx = .fg ∧ s.cur = some k ∧ k.uph = 0 ∧ decode k.word = .ok i

theorem UartStep.txSlot {s : State} {u : Uart} (h : UartStep s u) (hne : u.cbTx ≠ s.uart.cbTx) :
    ∃ reg fn, WritesSlot s (.uartSetcb false reg fn) ∧ u.cbTx = slotValue reg fn := by
  cases h with
  | line h => exact absurd h.slots.1 hne
  | @command k i u hk hd h =>
    cases h with
    | @txSlot l reg fn hi hctx hl hu =>
      obtain rfl : k = l := by simpa [hk] using hl
      exact ⟨reg, fn, ⟨k, hctx, hk, hu, hi ▸ hd⟩, rfl⟩
    | _ => exact absurd rfl hne

theorem UartStep.rxSlot {s : State} {u : Uart} (h : UartStep s u) (hne : u.cbRx ≠ s.uart.cbRx) :
    ∃ reg fn, WritesSlot s (.uartSetcb true reg fn) ∧ u.cbRx = slotValue reg fn := by
  cases h with
  | line h => exact absurd h.slots.2 hne
  | @command k i u hk hd h =>
    cases h with
    | @rxSlot l reg fn hi hctx hl hu =>
      obtain rfl : k = l := by simpa [hk] using hl
      exact ⟨reg, fn, ⟨k, hctx, hk, hu, hi ▸ hd⟩, rfl⟩
    | _ => exact absurd rfl hne

theorem SpiStep.slot {s : State} {u : Spi} (h : SpiStep s u) (hne : u.cb ≠ s.spi.cb) :
    ∃ reg fn, WritesSlot s (.spiSetcb false reg fn) ∧ u.cb = slotValue reg fn := by
  cases h with
  | wire h => exact absurd h.slot hne
  | @command k i u hk hd h =>
    cases h with
    | @slot l reg fn hi hctx hl hu =>
      obtain rfl : k = l := by simpa [hk] using hl
      exact ⟨reg, fn, ⟨k, hctx, hk, hu, hi ▸ hd⟩, rfl⟩
    | _ => exact absurd rfl hne

/-- Settles O56: a slot that a step changes is changed by its callback command, at u0 in the foreground. -/
theorem slotsHaveOneWriter : Obligations.SlotsHaveOneWriter := by
  intro s t h hp
  obtain ⟨turns, hm⟩ := step_moves h hp
  refine ⟨fun hne => ?_, fun hne => ?_, fun hne => ?_⟩
  · obtain ⟨reg, fn, ⟨k, hctx, hk, hu, hd⟩, hv⟩ := hm.uart.txSlot hne
    exact ⟨k, reg, fn, hctx, hk, hu, hd, hv⟩
  · obtain ⟨reg, fn, ⟨k, hctx, hk, hu, hd⟩, hv⟩ := hm.uart.rxSlot hne
    exact ⟨k, reg, fn, hctx, hk, hu, hd, hv⟩
  · obtain ⟨reg, fn, ⟨k, hctx, hk, hu, hd⟩, hv⟩ := hm.spi.slot hne
    exact ⟨k, reg, fn, hctx, hk, hu, hd, hv⟩

/-! ### The histories (R51) -/

theorem UartStep.txline {s : State} {u : Uart} (h : UartStep s u) : Grows s.uart.txline u.txline := by
  cases h with
  | command _ _ h => cases h <;> exact .refl _
  | line h =>
    cases h with
    | framed f => exact .one _ f
    | _ => exact .refl _

theorem UartStep.rxlog {s : State} {u : Uart} (h : UartStep s u) : Grows s.uart.rxlog u.rxlog := by
  cases h with
  | command _ _ h => cases h <;> exact .refl _
  | line h =>
    cases h with
    | accepted _ _ _ r => exact .one _ r
    | noted r => exact .one _ r
    | _ => exact .refl _

theorem SpiStep.wireLog {s : State} {u : Spi} (h : SpiStep s u) : Grows s.spi.wire u.wire := by
  cases h with
  | command _ _ h => cases h <;> exact .refl _
  | wire h =>
    cases h with
    | kept => exact .refl _
    | master e => exact .one _ e
    | slave e => exact .one _ e

theorem I2cStep.busLog {s : State} {u : I2c} (h : I2cStep s u) : Grows s.i2c.bus u.bus := by
  cases h with
  | command h =>
    cases h with
    | kept | issued => exact .refl _
    | stopped =>
      simp only [State.stopStep]
      split
      · exact .one _ _
      · exact .refl _
    | setUp =>
      simp only [State.i2cSetup]
      split
      · exact .one _ _
      · exact .refl _
  | bus h =>
    cases h with
    | kept => exact .refl _
    | started _ e => exact .one _ e
    | advanced _ e => exact .one _ e
    | failed _ _ _ hev => exact ⟨_, rfl, hev⟩

/-- Settles O58: each history grows by what the agents of its unit record. -/
theorem historiesOnlyGrow : Obligations.HistoriesOnlyGrow := by
  intro s t h hp
  obtain ⟨turns, hm⟩ := step_moves h hp
  exact ⟨hm.uart.txline, hm.uart.rxlog, hm.spi.wireLog, hm.i2c.busLog, hm.cbLog⟩

/-! ### The invariant of each unit -/

/-- The divisor registers hold the two bytes of the divisor (R133). -/
theorem divHigh_divLow (d : BitVec 16) : BitVec.ofNat 16 (256 * (divHigh d).toNat + (divLow d).toNat) = d := by
  have hd := d.isLt
  apply BitVec.eq_of_toNat_eq
  simp only [divHigh, divLow, BitVec.toNat_ofNat, BitVec.extractLsb'_toNat, Nat.shiftRight_eq_div_pow]
  omega

/-- A frame has a parity error only with parity on (R151). -/
theorem par_ne_zero_of_parityError {par : BitVec 2} {d : Byte} {w : Nat} {p : Bool}
    (h : parityError par d w p = true) : par ≠ 0 := by
  rintro rfl
  exact nomatch h

theorem UartMove.inv {i : Instr} {s : State} {u : Uart} (h : UartMove i s u) (hi : s.uart.inv s.params.fClk) :
    u.inv s.params.fClk := by
  cases h with
  | kept => exact hi
  | sent c => exact { hi with }
  | received =>
    exact { hi with
      quiet_before_init := fun _ => rfl
      unread_fits := fun h => nomatch h
      errors_with_byte := fun _ => ⟨rfl, rfl⟩
      parity_error_needs_parity := fun h => nomatch h }
  | configured safe wlen txm rxm rate hpar hfirst hd =>
    have hrxc : s.uart.rxc = false := hi.quiet_before_init hfirst
    exact {
      parity_legal := hpar
      txen_inited := rfl
      rxen_inited := rfl
      txie_mode := rfl
      rxie_mode := rfl
      quiet_before_init := fun h => nomatch h
      unread_fits := fun (h : s.uart.rxc = true) => by simp [hrxc] at h
      errors_with_byte := hi.errors_with_byte
      parity_error_needs_parity := fun (h : s.uart.pe = true) => by simp [(hi.errors_with_byte hrxc).1] at h
      divisor := fun _ => hd.trans (congrArg some (divHigh_divLow _).symm) }
  | txSlot => exact { hi with }
  | rxSlot => exact { hi with }

theorem LineMove.inv {fClk : Nat} {u v : Uart} (h : LineMove u v) (hi : u.inv fClk) : v.inv fClk := by
  cases h with
  | kept => exact hi
  | framed f => exact { hi with }
  | accepted d p stop r hv =>
    have hrxen : u.rxen = true := by
      cases hr : u.rxen
      · simp [Uart.verdict, hr] at hv
      · rfl
    have hin : u.inited = true := hi.rxen_inited ▸ hrxen
    exact { hi with
      quiet_before_init := fun (h : u.inited = false) => by simp [hin] at h
      unread_fits := fun _ => by
        show d &&& u.mask &&& u.mask = d &&& u.mask
        rw [BitVec.and_assoc, BitVec.and_self]
      errors_with_byte := fun h => nomatch h
      parity_error_needs_parity := par_ne_zero_of_parityError }
  | noted r => exact { hi with }

theorem SpiMove.inv {i : Instr} {s : State} {u : Spi} (h : SpiMove i s u) (hi : s.spi.inv s.params) :
    u.inv s.params := by
  cases h with
  | kept => exact hi
  | put c =>
    exact { hi with
      quiet_before_init := fun h => by
        obtain ⟨hm, hie, -, hb⟩ := hi.quiet_before_init h
        exact ⟨hm, hie, rfl, by simp [hm, hb]⟩
      busy_master := fun h => by
        refine ⟨?_, rfl⟩
        simp only [State.spiPut_spi, Bool.or_eq_true] at h
        exact h.elim id fun hb => (hi.busy_master hb).1 }
  | got =>
    exact { hi with
      quiet_before_init := fun h => by
        obtain ⟨hm, hie, -, hb⟩ := hi.quiet_before_init h
        exact ⟨hm, hie, rfl, hb⟩
      busy_master := fun h => ⟨(hi.busy_master h).1, rfl⟩ }
  | master hfirst | slave hfirst =>
    obtain ⟨-, -, -, hb⟩ := hi.quiet_before_init hfirst
    exact {
      en_inited := rfl
      quiet_before_init := fun h => nomatch h
      lines := fun _ => rfl
      constants := fun _ => ⟨rfl, rfl, rfl, rfl, rfl⟩
      busy_master := fun (h : s.spi.busy = true) => by simp [hb] at h }
  | slot => exact { hi with }

theorem WireMove.inv {p : Params} {u v : Spi} (h : WireMove u v) (hi : u.inv p) : v.inv p := by
  have hin (hen : u.en = true) : u.inited ≠ false := by simp [← hi.en_inited, hen]
  cases h with
  | kept => exact hi
  | master e b hen =>
    exact { hi with
      quiet_before_init := fun h => absurd h (hin hen)
      busy_master := fun h => nomatch h }
  | slave e b hen hslave =>
    exact { hi with
      quiet_before_init := fun h => absurd h (hin hen)
      busy_master := fun (h : u.busy = true) => by simpa [hslave] using hi.busy_master h }

theorem I2cMove.inv {s : State} {u : I2c} (h : I2cMove s u) (hi : s.i2c.inv) : u.inv := by
  cases h with
  | kept => exact hi
  | issued x b hen =>
    exact { hi with
      pending_not_done := fun _ => rfl
      rest_before_init := fun (h : s.i2c.en = false) => by simp [hen] at h }
  | stopped =>
    exact { hi with
      low_bits := (withStatus_low _ _).trans hi.low_bits
      rest_before_init := fun h => ⟨rfl, (hi.rest_before_init h).2⟩
      idle_not_owned := fun _ => rfl
      started_owned := fun h => absurd rfl h }
  | setUp tier addr7 =>
    exact {
      low_bits := statusAfterInit_low _ _
      pending_not_done := fun _ => rfl
      rest_before_init := fun h => nomatch h
      idle_not_owned := fun _ => rfl
      started_owned := fun h => absurd rfl h }

/-- An operation of I2B that ends, in a phase other than IDLE, with the bus owned unless it failed. -/
theorem I2c.inv_ended {u : I2c} (hi : u.inv) (hop : u.op ≠ none) (code : BitVec 5) {ph : I2cPhase} (ev : List BusEvent)
    (b : Byte) {owned : Bool} (hph : ph ≠ .idle) (howned : ph ≠ .fail → owned = true) :
    I2c.inv { u.ended code ph ev with dr := b, owned := owned } where
  low_bits := (withStatus_low _ _).trans hi.low_bits
  pending_not_done := fun h => absurd rfl h
  rest_before_init := fun h => absurd (hi.rest_before_init h).2.1 hop
  idle_not_owned := fun h => absurd h hph
  started_owned := fun _ => howned

theorem BusMove.inv {u v : I2c} (h : BusMove u v) (hi : u.inv) : v.inv := by
  cases h with
  | kept => exact hi
  | started code e hop => exact I2c.inv_ended hi hop code [e] u.dr (by simp) fun _ => rfl
  | advanced code e b hop hfrom hto =>
    exact I2c.inv_ended hi hop code [e] b hto fun _ => hi.started_owned hfrom.1 hfrom.2
  | @failed code ev b hop hev => exact I2c.inv_ended hi hop code ev b (by simp) fun h => absurd rfl h

theorem MemMove.wf {s : State} {m : Memory} (h : MemMove s m)
    (hs : Memory.wf Config.memBlank Config.memSize s.mem = true) : Memory.wf Config.memBlank Config.memSize m = true := by
  cases h with
  | kept => exact hs
  | stored a v ha => exact Memory.wf_write hs (Nat.lt_succ_of_le ha) v

theorem EepMove.wf {d : Device} {m : Memory} (h : EepMove d m)
    (hd : Memory.wf Config.eeBlank Config.eeSize d.eep = true) : Memory.wf Config.eeBlank Config.eeSize m = true := by
  cases h with
  | kept => exact hd
  | stored b => exact Memory.wf_write hd d.dptr.isLt b
  | unspecified k => exact Device.unspecified_wf k

/-! ### The invariant after reset, and under every step -/

theorem uart_reset_inv (fClk : Nat) : Uart.reset.inv fClk where
  parity_legal := by decide
  txen_inited := rfl
  rxen_inited := rfl
  txie_mode := rfl
  rxie_mode := rfl
  quiet_before_init := fun _ => rfl
  unread_fits := fun h => nomatch h
  errors_with_byte := fun _ => ⟨rfl, rfl⟩
  parity_error_needs_parity := fun h => nomatch h
  divisor := fun h => nomatch h

theorem spi_reset_inv (p : Params) : Spi.reset.inv p where
  en_inited := rfl
  quiet_before_init := fun _ => ⟨rfl, rfl, rfl, rfl⟩
  lines := fun h => nomatch h
  constants := fun h => nomatch h
  busy_master := fun h => nomatch h

theorem i2c_reset_inv : I2c.reset.inv where
  low_bits := by decide
  pending_not_done := fun h => absurd rfl h
  rest_before_init := fun _ => ⟨rfl, rfl, rfl⟩
  idle_not_owned := fun _ => rfl
  started_owned := fun h => absurd rfl h

/-- Settles O52: the memories are empty, nothing is in flight, and each unit's reset state meets its invariant. -/
theorem invariantHoldsAtReset : Obligations.InvariantHoldsAtReset := fun p => {
  mem := Memory.wf_nil _ _
  eeprom := Memory.wf_nil _ _
  handler_free := fun _ => rfl
  foreground := fun _ h => nomatch h
  handler := fun _ h => nomatch h
  uart := uart_reset_inv p.fClk
  spi := spi_reset_inv p
  i2c := i2c_reset_inv }

theorem powerOn_dev (s : State) : (powerOn s).dev = if s.i2c.owned then s.dev.release else s.dev := rfl

theorem powerOn_eep (s : State) : (powerOn s).dev.eep = s.dev.eep := by
  rw [powerOn_dev]
  split <;> rfl

/-- The power-on reset keeps host memory and the device's memory; the rest is as after reset (R290, R292). -/
theorem powerOn_inv {s : State} (hi : Inv s) : Inv (powerOn s) :=
  { invariantHoldsAtReset s.params with
    mem := hi.mem
    eeprom := powerOn_eep s ▸ hi.eeprom }

theorem Moves.inv {s t : State} (h : Moves s t) (hi : Inv s) : Inv t := by
  have hsound : AllSound t := h.sound fun _ _ => sound_of_inv hi
  exact {
    mem := h.mem.wf hi.mem
    eeprom := h.eep.wf hi.eeprom
    handler_free := h.handler_free hi.handler_free
    foreground := hsound .fg
    handler := hsound .isr
    uart := by
      rw [h.params]
      cases h.uart with
      | command _ _ hmove => exact hmove.inv hi.uart
      | line hmove => exact hmove.inv hi.uart
    spi := by
      rw [h.params]
      cases h.spi with
      | command _ _ hmove => exact hmove.inv hi.spi
      | wire hmove => exact hmove.inv hi.spi
    i2c := by
      cases h.i2c with
      | command hmove => exact hmove.inv hi.i2c
      | bus hmove => exact hmove.inv hi.i2c }

/-- The step on a turn of the power-on reset (R290). -/
theorem step_powerOn {s : State} {rest : List Turn} (h : s.turns = .powerOn :: rest) :
    step s = .next (powerOn { s with turns := rest }) := step_cons h

/-- Settles O51: the power-on reset gives the invariant back, and every other step keeps each part of it. -/
theorem invariantIsKept : Obligations.InvariantIsKept := by
  intro s t hi h
  by_cases hp : s.turns.head? = some .powerOn
  · obtain ⟨rest, hrest⟩ := List.head?_eq_some_iff.mp hp
    rw [step_powerOn hrest] at h
    cases h
    exact powerOn_inv (inv_withTurns hi rest)
  · obtain ⟨turns, hm⟩ := step_moves h hp
    exact hm.inv (inv_withTurns hi turns)

/-! ### The state on leaving reset (R56, R290 to R292) -/

/-- The turns of the block's agents but URX, which takes what LINE offers: CMD, UTX, SPX, I2B and IRQ (R291). -/
def BlockTurn (turn : Turn) : Prop :=
  turn = .cmd ∨ turn = .utx ∨ (∃ p, turn = .spxMaster p) ∨ (∃ m, turn = .spxSlave m) ∨ (∃ r, turn = .i2b r) ∨
    (∃ declines, turn = .i2bDevice declines) ∨ ∃ src honoured, turn = .irq src honoured

/-- In a state with nothing in flight, no unit enabled and no source pending, the turns of the block's agents pass. -/
theorem takeTurn_passes {s : State} (hcur : s.cur = none) (htx : s.uart.txen = false) (hspi : s.spi.en = false)
    (hop : s.i2c.op = none) (hpend : ∀ src, s.pending src = false) {turn : Turn}
    (hturn : BlockTurn turn) :
    takeTurn turn s = .next s := by
  obtain rfl | rfl | ⟨p, rfl⟩ | ⟨m, rfl⟩ | ⟨r, rfl⟩ | ⟨declines, rfl⟩ | ⟨src, honoured, rfl⟩ := hturn
  · simp [takeTurn, cmdStep, hcur]
  · simp [takeTurn, utxStep, htx]
  · simp [takeTurn, spxMasterStep, hspi]
  · simp [takeTurn, spxSlaveStep, hspi]
  · simp [takeTurn, i2bStep, hop]
  · simp [takeTurn, i2bDeviceStep, hop]
  · simp [takeTurn, irqStep, State.mayTake, hpend]

/-- The state right after reset is the one that the power-on reset makes of it. -/
theorem powerOn_reset : powerOn State.reset = State.reset := rfl

theorem powerOn_dptr (s : State) : (powerOn s).dev.dptr = s.dev.dptr := by
  rw [powerOn_dev]
  split <;> rfl

theorem powerOn_device_idle {s : State} (h : s.i2c.owned = true) : (powerOn s).dev.dst = .idle := by
  rw [powerOn_dev, if_pos h]
  rfl

theorem powerOn_pending (s : State) (src : IrqSource) : (powerOn s).pending src = false := by
  cases src <;> rfl

theorem powerOn_passes (s : State) (turn : Turn) (rest : List Turn) (hturn : BlockTurn turn) :
    step { powerOn s with turns := turn :: rest } = .next { powerOn s with turns := rest } :=
  (step_cons rfl).trans (takeTurn_passes (s := { powerOn s with turns := rest }) rfl rfl rfl rfl (powerOn_pending s) hturn)

/-- Settles O59: the state after reset is a state after a power-on reset, whose values are those of the table. -/
theorem resetState : Obligations.ResetState := by
  intro s t h
  obtain ⟨turns, rfl⟩ : ∃ turns, t = powerOn { s with turns := turns } := by
    obtain ⟨rfl, rfl⟩ | ⟨rest, hrest, hstep⟩ := h
    · exact ⟨_, powerOn_reset.symm⟩
    · rw [step_powerOn hrest] at hstep
      cases hstep
      exact ⟨rest, rfl⟩
  have hlow : I2c.reset.sr.toNat % 8 = 0 := by decide
  refine ⟨rfl, rfl, rfl, rfl, rfl, rfl, rfl, rfl, rfl, rfl, rfl, rfl, rfl, rfl, rfl, rfl, rfl, rfl, rfl, rfl, rfl, rfl, rfl,
    rfl, rfl, rfl, rfl, hlow, rfl, rfl, rfl, rfl, rfl, rfl, rfl, rfl, rfl, rfl, fun _ => rfl, powerOn_eep _,
    powerOn_dptr _, powerOn_device_idle, powerOn_passes _⟩

end Sys2Proof.Proofs
end

section
/-!
PROOFS. Host memory and the buffers of string commands in flight (20_memory.md rules R70 to R74): a byte written reads back,
and the model's test of an address against a buffer says exactly which bytes the command in flight claims.
-/

namespace Sys2Proof.Proofs

open Sys2Proof Sys2Proof.Machine

/-! ### A byte written reads back (R71, R72) -/

/-- Writing back the byte that an address holds changes nothing: a canonical memory lists no blank byte. -/
theorem memory_write_read {blank : Byte} {size lo : Nat} {m : Memory} (h : Memory.wfFrom blank size lo m = true)
    (a : Nat) : Memory.write blank m a (Memory.read blank m a) = m := by
  induction m generalizing lo with
  | nil => simp [Memory.read, Memory.write]
  | cons c m ih =>
    obtain ⟨b, x⟩ := c
    simp only [Memory.wfFrom, Bool.and_eq_true, decide_eq_true_eq, bne_iff_ne] at h
    obtain ⟨⟨-, hx⟩, hm⟩ := h
    obtain hab | rfl | hab := Nat.lt_trichotomy a b
    · have hblank : Memory.read blank m a = blank := Memory.read_below hm (by omega)
      simp [Memory.read, Memory.write, hab.ne, hab, hblank]
    · simp [Memory.read, Memory.write, hx]
    · simp [Memory.read, Memory.write, hab.ne', hab.not_gt, ih hm]

/-- Settles O47: the laws of a canonical memory, at an address of host memory. -/
theorem memoryReadsBack : Obligations.MemoryReadsBack := by
  intro s a v hwf ha
  refine ⟨fun b => State.readMem_writeMem s a b v hwf, Memory.wf_write hwf (Nat.lt_succ_of_le ha) v, ?_⟩
  exact congrArg (fun m => { s with mem := m }) (memory_write_read hwf a)

/-! ### The buffer of a string command in flight (R73, R74) -/

theorem le_stringEnd (m : Memory) (fuel a : Nat) : a ≤ stringEnd m fuel a := by
  induction fuel generalizing a with
  | zero => exact Nat.le_refl a
  | succ fuel ih =>
    rw [stringEnd]
    split
    · exact Nat.le_refl a
    · exact (Nat.le_succ a).trans (ih (a + 1))

/-- An address that the fuel reaches belongs to the string exactly when no zero byte stands before it. -/
theorem le_stringEnd_iff {m : Memory} {fuel p a : Nat} (hp : p ≤ a) (hfuel : a ≤ p + fuel) :
    a ≤ stringEnd m fuel p ↔ ∀ b, p ≤ b → b < a → Memory.read Config.memBlank m b ≠ 0 := by
  induction fuel generalizing p with
  | zero =>
    obtain rfl : a = p := by omega
    exact ⟨fun _ b hpb hba => by omega, fun _ => Nat.le_refl a⟩
  | succ fuel ih =>
    obtain rfl | hpa := hp.eq_or_lt
    · exact ⟨fun _ b hpb hba => by omega, fun _ => le_stringEnd m _ p⟩
    · rw [stringEnd]
      split
      · next hzero => exact ⟨fun h => by omega, fun h => absurd hzero (h p (Nat.le_refl p) hpa)⟩
      · next hzero =>
        rw [ih hpa (by omega)]
        refine ⟨fun h b hpb hba => ?_, fun h b hpb hba => h b (by omega) hba⟩
        obtain rfl | hpb := hpb.eq_or_lt
        · exact hzero
        · exact h b hpb hba

/-- The end of a string depends on the bytes of the string only. -/
theorem stringEnd_congr {m m' : Memory} {fuel p : Nat}
    (h : ∀ b, p ≤ b → b ≤ stringEnd m fuel p → Memory.read Config.memBlank m' b = Memory.read Config.memBlank m b) :
    stringEnd m' fuel p = stringEnd m fuel p := by
  induction fuel generalizing p with
  | zero => rfl
  | succ fuel ih =>
    have hp : Memory.read Config.memBlank m' p = Memory.read Config.memBlank m p :=
      h p (Nat.le_refl p) (le_stringEnd m _ p)
    rw [stringEnd] at h
    rw [stringEnd, stringEnd, hp]
    split
    · rfl
    · next hzero =>
      rw [if_neg hzero] at h
      exact ih fun b hpb hb => h b (by omega) hb

/-- The model's buffer of a command in flight holds exactly the bytes that the command claims. -/
theorem buffer_iff_claims (s : State) (k : InFlight) {a : Nat} (ha : a ≤ 0xFFFF) :
    (∃ lo hi, k.buffer s.mem = some (lo, hi) ∧ lo ≤ a ∧ a ≤ hi) ↔ k.claims s a := by
  have hsent (p : Addr) : p.toNat ≤ a ∧ a ≤ stringEnd s.mem (0xFFFF - p.toNat) p.toNat ↔
      p.toNat ≤ a ∧ ∀ b, p.toNat ≤ b → b < a → s.readMem b ≠ 0 :=
    and_congr_right fun hp => le_stringEnd_iff hp (by omega)
  cases hd : decode k.word with
  | error e => simp [InFlight.buffer, InFlight.claims, InFlight.instr, hd]
  | ok i =>
    cases i with
    | uartSends p | spiSends p => simp [InFlight.buffer, InFlight.claims, InFlight.instr, hd, hsent]
    | _ => simp [InFlight.buffer, InFlight.claims, InFlight.instr, hd]

theorem inBuffer_iff (s : State) (b : Bank) (a : Nat) :
    s.inBuffer b a = true ↔ ∃ k, b.cur = some k ∧ ∃ lo hi, k.buffer s.mem = some (lo, hi) ∧ lo ≤ a ∧ a ≤ hi := by
  unfold State.inBuffer
  cases hk : b.cur with
  | none => simp
  | some k =>
    cases hb : k.buffer s.mem with
    | none => simp [hb]
    | some ends => simp [hb, Prod.ext_iff]

/-- The test against the buffers is that of the claims. -/
theorem inBuffer_iff_claims (s : State) (b : Bank) {a : Nat} (ha : a ≤ 0xFFFF) :
    s.inBuffer b a = true ↔ ∃ k, b.cur = some k ∧ k.claims s a := by
  simp only [inBuffer_iff, buffer_iff_claims s _ ha]

/-- A write outside a buffer leaves the buffer as it is: its bytes are the ones that say where it ends. -/
theorem buffer_writeMem {s : State} {k : InFlight} {a : Nat} (v : Byte)
    (h : ∀ lo hi, k.buffer s.mem = some (lo, hi) → lo ≤ a → ¬ a ≤ hi) :
    k.buffer (s.writeMem a v).mem = k.buffer s.mem := by
  have hsent {p : Addr} (hout : p.toNat ≤ a → ¬ a ≤ stringEnd s.mem (0xFFFF - p.toNat) p.toNat) :
      stringEnd (s.writeMem a v).mem (0xFFFF - p.toNat) p.toNat = stringEnd s.mem (0xFFFF - p.toNat) p.toNat :=
    stringEnd_congr fun b hpb hb => State.readMem_writeMem_other s v fun hba => hout (hba ▸ hpb) (hba ▸ hb)
  cases hi : k.instr with
  | none => simp [InFlight.buffer, hi]
  | some i =>
    cases i with
    | uartSends p | spiSends p =>
      simp only [InFlight.buffer, hi, Option.some.injEq, Prod.mk.injEq, true_and]
      exact hsent (h _ _ (by simp [InFlight.buffer, hi]))
    | _ => simp [InFlight.buffer, hi]

theorem inBuffer_writeMem {s : State} {b : Bank} {a : Nat} (v : Byte) (h : s.inBuffer b a = false) (x : Nat) :
    (s.writeMem a v).inBuffer b x = s.inBuffer b x := by
  have hout : ¬ s.inBuffer b a = true := by simp [h]
  rw [inBuffer_iff] at hout
  unfold State.inBuffer
  cases hk : b.cur with
  | none => rfl
  | some k => simp only [buffer_writeMem v fun lo hi hb hlo hhi => hout ⟨k, hk, lo, hi, hb, hlo, hhi⟩]

end Sys2Proof.Proofs
end

section
/-!
PROOFS. The commands that store to host memory, micro-step by micro-step (20_memory.md rules R70 to R74, 41_uart.md rule R145,
42_spi.md rule R182, 44_eeprom.md rule R246): one equation per micro-step, what the end of a micro-step leaves alone, and the
statements that are read off them.
-/

namespace Sys2Proof.Proofs

open Sys2Proof Sys2Proof.Machine

/-! ### What the work of a micro-step leaves alone, and how the micro-step ends (R9, R25) -/

/-- `u` differs from `s` in the units, host memory, the device and the count of draws at most. -/
structure SameControl (s u : State) : Prop where
  rest : { u with uart := s.uart, spi := s.spi, i2c := s.i2c, mem := s.mem, dev := s.dev, draws := s.draws } = s

section Ends
variable {s u : State}

theorem SameControl.ctx (h : SameControl s u) : u.ctx = s.ctx := (congrArg State.ctx h.rest :)

theorem SameControl.bank (h : SameControl s u) (c : Ctx) : u.bank c = s.bank c := by
  cases c with
  | fg => exact (congrArg State.fg h.rest :)
  | isr => exact (congrArg State.isr h.rest :)

theorem SameControl.around (h : SameControl s u) : SameAround s u :=
  ⟨(congrArg State.params h.rest :), h.ctx, (congrArg State.cbLog h.rest :), (congrArg State.looped h.rest :),
    (congrArg State.turns h.rest :), fun c _ => h.bank c⟩

/-- The end of a micro-step writes the bank of the current context only. -/
theorem sameAround_setCur (h : SameAround s u) (k : Option InFlight) : SameAround s (u.setCur k) := by
  obtain ⟨hparams, hctx, hlog, hlooped, hturns, hbank⟩ := h
  refine ⟨by simp [hparams], by simp [hctx], by simp [hlog], by simp [hlooped], by simp [hturns], fun c hc => ?_⟩
  rw [State.setCur_bank, hctx, if_neg hc, hbank c hc]

theorem sameAround_setRes (h : SameAround s u) (r : BitVec 1) : SameAround s (u.setRes r) := by
  obtain ⟨hparams, hctx, hlog, hlooped, hturns, hbank⟩ := h
  refine ⟨by simp [hparams], by simp [hctx], by simp [hlog], by simp [hlooped], by simp [hturns], fun c hc => ?_⟩
  rw [State.setRes_bank, hctx, if_neg hc, hbank c hc]

theorem SameControl.goesOn (h : SameControl s u) (k : InFlight) (n : Nat) : GoesOn s (u.goto k n) { k with uph := n } := by
  rw [GoesOn, State.goto, State.setCur_bank, h.ctx, if_pos rfl, h.bank]

theorem SameControl.goesOn_same (h : SameControl s u) {k : InFlight} {n : Nat} (hu : k.uph = n) :
    GoesOn s (u.goto k n) k := by
  cases hu
  exact h.goesOn k k.uph

theorem SameControl.completes (h : SameControl s u) : Completes s u.complete := by
  rw [Completes, State.complete, State.setCur_bank, h.ctx, if_pos rfl, h.bank]

theorem SameControl.completesResult (h : SameControl s u) (r : BitVec 1) :
    CompletesResult s (u.setRes r).complete r := by
  rw [CompletesResult, State.complete, State.setCur_bank, State.setRes_ctx, h.ctx, if_pos rfl, State.setRes_bank, h.ctx,
    if_pos rfl, h.bank]

theorem sameI2c_setCur (h : SameI2c s u) (k : Option InFlight) : SameI2c s (u.setCur k) := by
  simpa [SameI2c] using h

theorem outsideUartAndMemory_setCur (h : SameControl s u) (hspi : u.spi = s.spi) (hi2c : SameI2c s u)
    (k : Option InFlight) : OutsideUartAndMemory s (u.setCur k) :=
  ⟨by simp [hspi], sameI2c_setCur hi2c k, sameAround_setCur h.around k⟩

theorem outsideSpiAndMemory_setCur (h : SameControl s u) (huart : u.uart = s.uart) (hi2c : SameI2c s u)
    (k : Option InFlight) : OutsideSpiAndMemory s (u.setCur k) :=
  ⟨by simp [huart], sameI2c_setCur hi2c k, sameAround_setCur h.around k⟩

/-- A step that is held, or that only ends a micro-step, leaves the units alone. -/
theorem outsideBank_setCur (s : State) (k : Option InFlight) : OutsideBank s (s.setCur k) :=
  ⟨by simp, by simp, sameI2c_setCur ⟨rfl, rfl, rfl⟩ k, fun a => by simp [State.readMem],
    sameAround_setCur (SameControl.around ⟨rfl⟩) k⟩

theorem sameMemory_of_mem (h : u.mem = s.mem) : SameMemory s u := fun a => by simp only [State.readMem, h]

/-- After a store the byte stands at its address, and every other byte is as before (R72). -/
theorem sameMemoryBut_of_store {a : Nat} {v : Byte} (h : u.mem = (s.writeMem a v).mem) : SameMemoryBut a s u :=
  fun b hb => by
    rw [State.readMem, h]
    exact State.readMem_writeMem_other s v hb

theorem readMem_of_store {a : Nat} {v : Byte} (hwf : Memory.wf Config.memBlank Config.memSize s.mem = true)
    (h : u.mem = (s.writeMem a v).mem) : u.readMem a = v := by
  rw [State.readMem, h]
  exact Memory.read_write_same hwf a v

end Ends

/-! ### The store of a command, and a micro-step that is held or refused (R9, R72 to R74) -/

section Store
variable {s : State} {a : Nat} {v : Byte} {body : State → Result}

theorem storeByte_free (ha : a ≤ 0xFFFF) (hfree : s.storeFree a) :
    storeByte a v s body = body (s.writeMem a v) := by
  rw [storeByte, require, if_pos ha, require, if_pos]
  rintro ⟨hisr, hin⟩
  simp [hfree hisr] at hin

theorem storeByte_outOfRange (ha : 0xFFFF < a) : storeByte a v s body = .refused .addressRange := by
  rw [storeByte, require, if_neg (by omega)]

/-- A handler's store into the buffer of the suspended foreground command is refused (R74; log entry 9). -/
theorem storeByte_race {suspended : InFlight} (hctx : s.ctx = .isr) (hfg : s.fg.cur = some suspended)
    (hclaim : suspended.claims s a) (ha : a ≤ 0xFFFF) : storeByte a v s body = .refused .bufferRace := by
  have hin : s.inBuffer s.fg a = true := (inBuffer_iff_claims s s.fg ha).mpr ⟨suspended, hfg, hclaim⟩
  rw [storeByte, require, if_pos ha, require, if_neg (by simp [hctx, hin])]

theorem holdUntil_open {c : Bool} {r : Result} (h : c = true) : holdUntil c s r = r := by rw [holdUntil, if_pos h]

theorem holdUntil_held {c : Bool} {r : Result} (h : c = false) : holdUntil c s r = .next s := by
  rw [holdUntil, if_neg (by simp [h])]

/-- A command that is not admitted is refused at u0. -/
theorem microStep_refused {i : Instr} {r : Refusal} {k : InFlight} {body : InFlight → Result} (hk : s.cur = some k)
    (hu : k.uph = 0) (ha : admission s i = some r) : microStep i s body = .refused r := by
  simp [microStep, hk, hu, ha]

end Store

/-! ### `UART_RECVS` (R145) -/

section UartRecvs
variable {s : State} {k : InFlight} {p : Addr}

theorem admission_uartRecvs (hrecv : s.recvAdmitted) (hover : s.noOverlap (.uartRecvs p)) :
    admission s (.uartRecvs p) = none := by
  obtain ⟨hinit, hpoll⟩ := hrecv
  refine admission_none.mpr ⟨rfl, hover, ?_⟩
  simpa [modeRefusal, modeRefusal.uartRecvRefusal, hinit] using hpoll

/-- At u0 the length byte is received. -/
theorem exec_uartRecvs_length (hk : s.cur = some k) (hu : k.uph = 0) (ha : admission s (.uartRecvs p) = none) :
    exec (.uartRecvs p) s = holdUntil s.uart.rxc s
      (.next (s.recvStep.goto { k with si := s.uart.recvValue, sn := s.uart.recvValue, sp := p.toNat } 1)) := by
  cases k
  cases hu
  exact microStep_run hk fun _ => ha

/-- At u1 the payload bytes that are left are received and stored one by one. -/
theorem exec_uartRecvs_payload (hk : s.cur = some k) (hu : k.uph = 1) :
    exec (.uartRecvs p) s =
      if k.sn = 0 then .next (s.goto k 2)
      else holdUntil s.uart.rxc s (storeByte k.sp s.uart.recvValue s fun t =>
        .next (t.recvStep.goto { k with sp := k.sp + 1, sn := k.sn - 1 } 1)) := by
  cases k
  cases hu
  exact microStep_run hk (fun h => nomatch h)

/-- At u2 the terminator is stored. -/
theorem exec_uartRecvs_terminator (hk : s.cur = some k) (hu : k.uph = 2) :
    exec (.uartRecvs p) s = storeByte k.sp 0 s fun t => .next t.complete := by
  cases k
  cases hu
  exact microStep_run hk (fun h => nomatch h)

theorem exec_uartRecvs_paid (hk : s.cur = some k) (hu : k.uph = 1) (hsn : k.sn = 0) :
    exec (.uartRecvs p) s = .next (s.goto k 2) := by
  rw [exec_uartRecvs_payload hk hu, if_pos hsn]

theorem exec_uartRecvs_stores (hk : s.cur = some k) (hu : k.uph = 1) (hsn : k.sn ≠ 0) (hrxc : s.uart.rxc = true) :
    exec (.uartRecvs p) s = storeByte k.sp s.uart.recvValue s fun t =>
      .next (t.recvStep.goto { k with sp := k.sp + 1, sn := k.sn - 1 } 1) := by
  rw [exec_uartRecvs_payload hk hu, if_neg hsn, holdUntil_open hrxc]

theorem uart_lineError_iff (u : Uart) : u.lineError = true ↔ (u.par ≠ 0 ∧ u.pe = true) ∨ u.fe = true := by
  simp [Uart.lineError]

end UartRecvs

/-- Settles O20: the equation of each micro-step, and what its end leaves alone. -/
theorem uartRecvsMicroSteps : Obligations.UartRecvsMicroSteps := by
  intro s k p err v herr hv hwf
  obtain rfl : err = s.uart.lineError := Bool.eq_iff_iff.mpr (herr.trans (uart_lineError_iff s.uart).symm)
  obtain rfl : v = s.uart.recvValue := hv
  refine ⟨?_, ?_, ?_, ?_, ?_, ?_, ?_⟩
  · rintro ⟨hk, -, hu⟩ hrecv hover hrxc
    refine ⟨_, (exec_uartRecvs_length hk hu (admission_uartRecvs hrecv hover)).trans (holdUntil_open hrxc),
      by simp, SameControl.goesOn ⟨rfl⟩ _ 1, ?_⟩
    obtain ⟨hspi, hi2c, haround⟩ := outsideUartAndMemory_setCur (s := s) (u := s.recvStep) ⟨rfl⟩ rfl ⟨rfl, rfl, rfl⟩ _
    exact ⟨hspi, hi2c, sameMemory_of_mem (by simp), haround⟩
  · rintro ⟨hk, -, hu⟩ hsn
    exact ⟨_, exec_uartRecvs_paid hk hu hsn, SameControl.goesOn ⟨rfl⟩ k 2, outsideBank_setCur s _⟩
  · rintro ⟨hk, -, hu⟩ hsn hrxc hsp hfree
    refine ⟨_, (exec_uartRecvs_stores hk hu hsn hrxc).trans (storeByte_free hsp hfree), by simp,
      readMem_of_store hwf (by simp), sameMemoryBut_of_store (v := s.uart.recvValue) (by simp),
      SameControl.goesOn_same ⟨rfl⟩ hu, outsideUartAndMemory_setCur ⟨rfl⟩ rfl ⟨rfl, rfl, rfl⟩ _⟩
  · rintro ⟨hk, -, hu⟩ hsn hrxc hsp
    exact (exec_uartRecvs_stores hk hu hsn hrxc).trans (storeByte_outOfRange hsp)
  · rintro ⟨hk, -, hu⟩ hsp hfree
    exact ⟨_, (exec_uartRecvs_terminator hk hu).trans (storeByte_free hsp hfree), by simp, readMem_of_store hwf (by simp),
      sameMemoryBut_of_store (v := 0) (by simp), SameControl.completes ⟨rfl⟩,
      outsideUartAndMemory_setCur ⟨rfl⟩ rfl ⟨rfl, rfl, rfl⟩ _⟩
  · rintro ⟨hk, -, hu⟩ hsp
    exact (exec_uartRecvs_terminator hk hu).trans (storeByte_outOfRange hsp)
  · rintro (⟨⟨hk, -, hu⟩, hrecv, hover⟩ | ⟨⟨hk, -, hu⟩, hsn⟩) hrxc
    · exact (exec_uartRecvs_length hk hu (admission_uartRecvs hrecv hover)).trans (holdUntil_held hrxc)
    · rw [exec_uartRecvs_payload hk hu, if_neg hsn, holdUntil_held hrxc]

end Sys2Proof.Proofs
end

section
/-!
PROOFS. `SPI_RECVS` and `EE_READ` micro-step by micro-step (42_spi.md rule R182, 44_eeprom.md rules R246 to R249), and what
the statements of 20_memory.md say of the three storing commands together: the frame of a store, and the buffer race.
-/

namespace Sys2Proof.Proofs

open Sys2Proof Sys2Proof.Machine

/-! ### `SPI_RECVS` (R182) -/

section SpiRecvs
variable {s : State} {k : InFlight} {p : Addr}

theorem admission_spiRecvs (hinit : s.spi.inited = true) (hie : s.spi.ie = false) (hover : s.noOverlap (.spiRecvs p)) :
    admission s (.spiRecvs p) = none :=
  admission_none.mpr ⟨rfl, hover, by simp [modeRefusal, hinit, hie]⟩

/-- In interrupt mode there is no `SPI_RECVS` (R171). -/
theorem admission_spiRecvs_interruptMode (hinit : s.spi.inited = true) (hie : s.spi.ie = true)
    (hover : s.noOverlap (.spiRecvs p)) : admission s (.spiRecvs p) = some .notAvailableInInterruptMode := by
  have hfree : ¬ (s.ctx = .isr ∧ s.foregroundUses (.spiRecvs p) = true) := fun ⟨hisr, huses⟩ => by
    simp [hover hisr] at huses
  rw [admission, admissionIn, if_neg (by simp [Instr.wellFormed]), if_neg hfree]
  simp [modeRefusal, hinit, hie]

/-- At u0 the length byte is received. -/
theorem exec_spiRecvs_length (hk : s.cur = some k) (hu : k.uph = 0) (ha : admission s (.spiRecvs p) = none) :
    exec (.spiRecvs p) s = holdUntil s.spi.tc s
      (.next (s.spiGet.goto { k with si := s.spi.dr, sn := s.spi.dr, sp := p.toNat } 1)) := by
  cases k
  cases hu
  exact microStep_run hk fun _ => ha

/-- At u1 the payload bytes that are left are received and stored one by one. -/
theorem exec_spiRecvs_payload (hk : s.cur = some k) (hu : k.uph = 1) :
    exec (.spiRecvs p) s =
      if k.sn = 0 then .next (s.goto k 2)
      else holdUntil s.spi.tc s (storeByte k.sp s.spi.dr s fun t =>
        .next (t.spiGet.goto { k with sp := k.sp + 1, sn := k.sn - 1 } 1)) := by
  cases k
  cases hu
  exact microStep_run hk (fun h => nomatch h)

/-- At u2 the terminator is stored. -/
theorem exec_spiRecvs_terminator (hk : s.cur = some k) (hu : k.uph = 2) :
    exec (.spiRecvs p) s = storeByte k.sp 0 s fun t => .next t.complete := by
  cases k
  cases hu
  exact microStep_run hk (fun h => nomatch h)

theorem exec_spiRecvs_stores (hk : s.cur = some k) (hu : k.uph = 1) (hsn : k.sn ≠ 0) (htc : s.spi.tc = true) :
    exec (.spiRecvs p) s = storeByte k.sp s.spi.dr s fun t =>
      .next (t.spiGet.goto { k with sp := k.sp + 1, sn := k.sn - 1 } 1) := by
  rw [exec_spiRecvs_payload hk hu, if_neg hsn, holdUntil_open htc]

end SpiRecvs

/-- Settles O31: the equation of each micro-step, and what its end leaves alone. -/
theorem spiRecvsMicroSteps : Obligations.SpiRecvsMicroSteps := by
  intro s k p hwf
  refine ⟨?_, ?_, ?_, ?_, ?_, ?_, ?_, ?_⟩
  · rintro ⟨hk, -, hu⟩ hover hinit hie htc
    refine ⟨_, (exec_spiRecvs_length hk hu (admission_spiRecvs hinit hie hover)).trans (holdUntil_open htc),
      by simp, SameControl.goesOn ⟨rfl⟩ _ 1, ?_⟩
    obtain ⟨huart, hi2c, haround⟩ := outsideSpiAndMemory_setCur (s := s) (u := s.spiGet) ⟨rfl⟩ rfl ⟨rfl, rfl, rfl⟩ _
    exact ⟨huart, hi2c, sameMemory_of_mem (by simp), haround⟩
  · rintro ⟨hk, -, hu⟩ hsn
    exact ⟨_, (exec_spiRecvs_payload hk hu).trans (if_pos hsn), SameControl.goesOn ⟨rfl⟩ k 2, outsideBank_setCur s _⟩
  · rintro ⟨hk, -, hu⟩ hsn htc hsp hfree
    exact ⟨_, (exec_spiRecvs_stores hk hu hsn htc).trans (storeByte_free hsp hfree), by simp,
      readMem_of_store hwf (by simp), sameMemoryBut_of_store (v := s.spi.dr) (by simp), SameControl.goesOn_same ⟨rfl⟩ hu,
      outsideSpiAndMemory_setCur ⟨rfl⟩ rfl ⟨rfl, rfl, rfl⟩ _⟩
  · rintro ⟨hk, -, hu⟩ hsn htc hsp
    exact (exec_spiRecvs_stores hk hu hsn htc).trans (storeByte_outOfRange hsp)
  · rintro ⟨hk, -, hu⟩ hsp hfree
    exact ⟨_, (exec_spiRecvs_terminator hk hu).trans (storeByte_free hsp hfree), by simp, readMem_of_store hwf (by simp),
      sameMemoryBut_of_store (v := 0) (by simp), SameControl.completes ⟨rfl⟩,
      outsideSpiAndMemory_setCur ⟨rfl⟩ rfl ⟨rfl, rfl, rfl⟩ _⟩
  · rintro ⟨hk, -, hu⟩ hsp
    exact (exec_spiRecvs_terminator hk hu).trans (storeByte_outOfRange hsp)
  · rintro ⟨hk, -, hu⟩ hover hinit hie
    exact microStep_refused hk hu (admission_spiRecvs_interruptMode hinit hie hover)
  · rintro (⟨⟨hk, -, hu⟩, hover, hinit, hie⟩ | ⟨⟨hk, -, hu⟩, hsn⟩) htc
    · exact (exec_spiRecvs_length hk hu (admission_spiRecvs hinit hie hover)).trans (holdUntil_held htc)
    · rw [exec_spiRecvs_payload hk hu, if_neg hsn, holdUntil_held htc]

/-! ### The shared micro-steps of the EEPROM sequences (R205, R248, R249) -/

section Sequencer
variable {s u : State} {k : InFlight} {n : Nat}

theorem i2cIssue_notInitialised {x : I2cOp} {body : State → Result} (hen : s.i2c.en = false) :
    i2cIssue x s body = .refused .notInitialised := by
  rw [i2cIssue, require, if_neg (by simp [hen])]

theorem i2cIssue_outOfSequence {x : I2cOp} {body : State → Result} (hen : s.i2c.en = true)
    (hph : admitsI2c x s.i2c.ph = false) : i2cIssue x s body = .refused .outOfSequence := by
  rw [i2cIssue, require, if_pos hen, require, if_neg (by simp [hph])]

theorem i2cIssue_admitted {x : I2cOp} {body : State → Result} (hen : s.i2c.en = true)
    (hph : admitsI2c x s.i2c.ph = true) :
    i2cIssue x s body = body { s with i2c := { s.i2c with op := some x, done := false } } := by
  rw [i2cIssue, require, if_pos hen, require, if_pos hph]

/-- The phases in which a byte may be written (R206). -/
theorem admitsI2c_write_iff {ph : I2cPhase} : admitsI2c .write ph = true ↔ ph = .addr ∨ ph = .mt := by
  cases ph <;> simp [admitsI2c]

/-- The phase in which the last byte may be read (R206). -/
theorem admitsI2c_readNack_iff {ph : I2cPhase} : admitsI2c .readNack ph = true ↔ ph = .mr := by
  cases ph <;> simp [admitsI2c]

theorem outsideI2cUnit_setCur {i : I2c} (k : Option InFlight) :
    OutsideI2cUnit s (({ s with i2c := i } : State).setCur k) :=
  ⟨⟨by simp, by simp, sameMemory_of_mem (by simp), sameAround_setCur (SameControl.around ⟨rfl⟩) k⟩, by simp, by simp⟩

/-- The issue of an operation with the byte `b` in the data register. -/
theorem eepromIssue_goesOn {x : I2cOp} {b : Byte} (hen : s.i2c.en = true) (hph : admitsI2c x s.i2c.ph = true) :
    ∃ t, i2cIssue x (s.setI2cData b) (fun t => .next (t.goto k n)) = .next t ∧
      t.i2c = { s.i2c with dr := b, op := some x, done := false } ∧ GoesOn s t { k with uph := n } ∧
      OutsideI2cUnit s t :=
  ⟨_, i2cIssue_admitted hen hph, by simp, SameControl.goesOn ⟨rfl⟩ k n, outsideI2cUnit_setCur _⟩

/-- A check after the work `u` of a micro-step goes on, or ends the command with the error result (R248, R249). -/
theorem checkStatus_ends {code : Byte} (hu : SameControl s u) :
    ∃ t, checkStatus code u k n = .next t ∧
      (if u.i2c.sr &&& 0xF8 = code then GoesOn s t { k with uph := n } else CompletesResult s t 1) ∧
      t.uart = u.uart ∧ t.spi = u.spi ∧ SameI2c u t ∧ t.mem = u.mem ∧ SameAround s t := by
  by_cases hcode : statusCode u.i2c.sr = code
  · refine ⟨u.goto k n, if_pos hcode, ?_, by simp, by simp, by simp [SameI2c], by simp, sameAround_setCur hu.around _⟩
    rw [statusCode] at hcode
    rw [if_pos hcode]
    exact hu.goesOn k n
  · refine ⟨(u.setRes Config.resError).complete, if_neg hcode, ?_, by simp, by simp, by simp [SameI2c], by simp,
      sameAround_setCur (sameAround_setRes hu.around _) _⟩
    rw [statusCode] at hcode
    rw [if_neg hcode]
    exact hu.completesResult 1

/-- The wait for an operation that has ended. -/
theorem eepromWait_ends {code : Byte} (hdone : s.i2c.done = true) :
    ∃ t, eepromWait code s k n = .next t ∧
      (if s.i2c.sr &&& 0xF8 = code then GoesOn s t { k with uph := n } else CompletesResult s t 1) ∧ OutsideBank s t := by
  obtain ⟨t, ht, hend, huart, hspi, hi2c, hmem, haround⟩ :=
    checkStatus_ends (s := s) (u := s) (k := k) (n := n) (code := code) ⟨rfl⟩
  exact ⟨t, (holdUntil_open hdone).trans ht, hend, huart, hspi, hi2c, sameMemory_of_mem hmem, haround⟩

/-- The stop that ends a sequence (R216, R254). -/
theorem stopStep_device (s : State) : DeviceAfterStop s s.stopStep := by
  refine ⟨fun hfree => by simp [State.stopStep, hfree], fun howned => ?_⟩
  refine ⟨(s.dev.stopped s.draws).declinesLeft, if_pos howned, fun hno => if_neg ?_⟩
  rintro ⟨hdst, hstored⟩
  obtain hdst' | hstored' := hno
  · exact hdst' hdst
  · simp [hstored] at hstored'

/-- The last micro-step of a sequence: the stop, and the success result. -/
theorem eepromFinish_ends (s : State) :
    ∃ (t : State) (c : BitVec 5), eepromFinish s = .next t ∧
      t.i2c = { s.i2c with
        ph := .idle, owned := false, sr := BitVec.ofNat 8 (8 * c.toNat + s.i2c.sr.toNat % 8),
        bus := s.i2c.bus ++ (if s.i2c.owned then [.stop] else []) } ∧
      CompletesResult s t 0 ∧ DeviceAfterStop s t ∧ OutsideI2c s t := by
  refine ⟨_, Config.drawCode s.draws, rfl, ?_, SameControl.completesResult ⟨rfl⟩ 0, ?_, by simp, by simp,
    sameMemory_of_mem (by simp), sameAround_setCur (sameAround_setRes (SameControl.around ⟨rfl⟩) _) _⟩
  · cases howned : s.i2c.owned <;> simp [State.stopStep, withStatus, howned]
  · simpa only [DeviceAfterStop, State.complete_dev, State.setRes_dev] using stopStep_device s

end Sequencer

/-! ### `EE_READ` (R246) -/

/-- The device-select byte is 0xA0 with bits [10:8] of the address above the direction bit (R11(e), R241). -/
theorem selectByte_eq (ea : EepromAddr) (read : Bool) :
    selectByte ea read = BitVec.ofNat 8 (0xA0 + read.toNat + 2 * (ea.toNat / 256)) := by
  have hhigh : ea.toNat / 256 = (ea.extractLsb' 8 3).toNat := by
    have := ea.isLt
    rw [BitVec.extractLsb'_toNat, Nat.shiftRight_eq_div_pow]
    omega
  rw [selectByte, hhigh]
  generalize ea.extractLsb' 8 3 = high
  revert high read
  decide

/-- The second address byte is the low eight bits (R77, R241). -/
theorem lowAddress_eq (ea : EepromAddr) : lowAddress ea = BitVec.ofNat 8 (ea.toNat % 256) := by
  apply BitVec.eq_of_toNat_eq
  rw [lowAddress, BitVec.extractLsb'_toNat, BitVec.toNat_ofNat]
  simp

/-- The issue steps of `EE_READ`: micro-phase, operation, and the byte that then stands in the data register. -/
def eeReadIssues (ea : EepromAddr) (s : State) : List (Nat × I2cOp × Byte) :=
  [(0, .start, s.i2c.dr), (2, .write, selectByte ea false), (4, .write, lowAddress ea), (6, .start, s.i2c.dr),
    (8, .write, selectByte ea true), (10, .readNack, s.i2c.dr)]

/-- The wait steps of `EE_READ` that store nothing, and the status code each checks. -/
def eeReadWaits (s : State) : List (Nat × Byte) :=
  [(1, s.params.stStart), (3, s.params.stMtSlaAck), (5, s.params.stMtDataAck), (7, s.params.stRepStart),
    (9, s.params.stMrSlaAck)]

section EeRead
variable {s : State} {k : InFlight} {n : Nat} {ea : EepromAddr} {out : Addr}

theorem admission_eeRead (hover : s.noOverlap (.eeRead ea out)) : admission s (.eeRead ea out) = none :=
  admission_none.mpr ⟨rfl, hover, rfl⟩

theorem exec_eeRead_issue {x : I2cOp} {b : Byte} (hk : s.cur = some k) (hu : k.uph = n)
    (ha : n = 0 → admission s (.eeRead ea out) = none) (hx : (n, x, b) ∈ eeReadIssues ea s) :
    exec (.eeRead ea out) s = i2cIssue x (s.setI2cData b) fun t => .next (t.goto k (n + 1)) := by
  cases k
  cases hu
  refine (microStep_run hk ha).trans ?_
  simp only [eeReadIssues, List.mem_cons, Prod.mk.injEq, List.not_mem_nil, or_false] at hx
  obtain ⟨rfl, rfl, rfl⟩ | ⟨rfl, rfl, rfl⟩ | ⟨rfl, rfl, rfl⟩ | ⟨rfl, rfl, rfl⟩ | ⟨rfl, rfl, rfl⟩ |
    ⟨rfl, rfl, rfl⟩ := hx <;> rfl

theorem exec_eeRead_wait {c : Byte} (hk : s.cur = some k) (hu : k.uph = n) (hc : (n, c) ∈ eeReadWaits s) :
    exec (.eeRead ea out) s = eepromWait c s k (n + 1) := by
  cases k
  cases hu
  simp only [eeReadWaits, List.mem_cons, Prod.mk.injEq, List.not_mem_nil, or_false] at hc
  obtain ⟨rfl, rfl⟩ | ⟨rfl, rfl⟩ | ⟨rfl, rfl⟩ | ⟨rfl, rfl⟩ | ⟨rfl, rfl⟩ := hc <;>
    exact microStep_run hk (fun h => nomatch h)

/-- At u11 the byte read is stored, and the last code is checked after it. -/
theorem exec_eeRead_store (hk : s.cur = some k) (hu : k.uph = 11) :
    exec (.eeRead ea out) s = holdUntil s.i2c.done s
      (storeByte out.toNat s.i2c.dr s fun t => checkStatus s.params.stMrDataNack t k 12) := by
  cases k
  cases hu
  exact microStep_run hk (fun h => nomatch h)

theorem exec_eeRead_finish (hk : s.cur = some k) (hu : k.uph = 12) : exec (.eeRead ea out) s = eepromFinish s := by
  cases k
  cases hu
  exact microStep_run hk (fun h => nomatch h)

end EeRead

/-- Settles O44: the issue steps, the wait steps, the store and the stop of the sequence. -/
theorem eeReadMicroSteps : Obligations.EeReadMicroSteps := by
  rintro s k ea out n ⟨hk, -, hu⟩ hover hwf
  have ha (hn : n = 0) : admission s (.eeRead ea out) = none := admission_eeRead (hover hn)
  have hread : selectByte ea true = BitVec.ofNat 8 (0xA1 + 2 * (ea.toNat / 256)) := selectByte_eq ea true
  have hwrite : selectByte ea false = BitVec.ofNat 8 (0xA0 + 2 * (ea.toNat / 256)) := selectByte_eq ea false
  have hissue {x : I2cOp} {b : Byte} (hx : (n, x, b) ∈ eeReadIssues ea s) := exec_eeRead_issue (out := out) hk hu ha hx
  refine ⟨fun x b hx hen => ?_, fun hn hen => ?_, fun c hc hdone => ?_, fun hn hdone hfree => ?_, fun hn hdone => ?_,
    fun hn => ?_⟩
  · rw [← hread, ← hwrite, ← lowAddress_eq] at hx
    rw [hissue hx]
    refine ⟨fun hph => eepromIssue_goesOn hen ?_, fun hph => i2cIssue_outOfSequence hen ?_⟩
    · obtain rfl | ⟨rfl, hph⟩ | ⟨rfl, hph⟩ := hph
      · rfl
      · exact admitsI2c_write_iff.mpr hph
      · exact admitsI2c_readNack_iff.mpr hph
    · obtain ⟨rfl, hph⟩ | ⟨rfl, hph⟩ := hph
      · exact Bool.eq_false_iff.mpr fun h => (admitsI2c_write_iff.mp h).elim hph.1 hph.2
      · exact Bool.eq_false_iff.mpr fun h => hph (admitsI2c_readNack_iff.mp h)
  · obtain ⟨x, b, hx⟩ : ∃ x b, (n, x, b) ∈ eeReadIssues ea s := by
      obtain rfl | rfl | rfl | rfl | rfl | rfl := hn <;> simp [eeReadIssues]
    exact (hissue hx).trans (i2cIssue_notInitialised hen)
  · rw [exec_eeRead_wait hk hu hc]
    exact eepromWait_ends hdone
  · subst hn
    obtain ⟨t, ht, hend, huart, hspi, hi2c, hmem, haround⟩ :=
      checkStatus_ends (s := s) (u := s.writeMem out.toNat s.i2c.dr) (k := k) (n := 12)
        (code := s.params.stMrDataNack) ⟨rfl⟩
    exact ⟨t, ((exec_eeRead_store hk hu).trans (holdUntil_open hdone)).trans
      ((storeByte_free (Nat.le_of_lt_succ out.isLt) hfree).trans ht), readMem_of_store hwf hmem,
      sameMemoryBut_of_store hmem, hend, huart, hspi, hi2c, haround⟩
  · obtain rfl | ⟨c, hc⟩ : n = 11 ∨ ∃ c, (n, c) ∈ eeReadWaits s := by
      obtain rfl | rfl | rfl | rfl | rfl | rfl := hn <;> simp [eeReadWaits]
    · exact (exec_eeRead_store hk hu).trans (holdUntil_held hdone)
    · exact (exec_eeRead_wait hk hu hc).trans (holdUntil_held hdone)
  · subst hn
    rw [exec_eeRead_finish hk hu]
    exact eepromFinish_ends s

end Sys2Proof.Proofs
end

section
/-!
PROOFS. Who writes the two memories (20_memory.md rules R70 to R74, 44_eeprom.md rule R254): the three storing commands, each
at the address it computes and nowhere else, HOST, and the data byte of a write to the reference device; and the writes that
are refused because they race with a string command in flight.
-/

namespace Sys2Proof.Proofs

open Sys2Proof Sys2Proof.Machine

/-! ### What the three storing commands write (R145, R182, R246) -/

theorem ensures_next {t : State} {P : State → Prop} (h : P t) : Ensures (.next t) P := h

theorem Ensures.mono {r : Result} {P Q : State → Prop} (h : Ensures r P) (hPQ : ∀ t, P t → Q t) : Ensures r Q :=
  ensures_iff.mpr fun t ht => hPQ t (ensures_iff.mp h t ht)

theorem sameMemory_refl (s : State) : SameMemory s s := fun _ => rfl

/-- Every byte reads as before, or in the phases given every byte but the one at `a`, an address of host memory. -/
def StoresAt (a : Nat) (phase : Prop) (s t : State) : Prop :=
  SameMemory s t ∨ SameMemoryBut a s t ∧ a ≤ 0xFFFF ∧ phase

section StoresAt
variable {a : Nat} {phase : Prop} {s t : State}

theorem StoresAt.stored {v : Byte} (ha : a ≤ 0xFFFF) (hphase : phase) : StoresAt a phase s (s.writeMem a v) :=
  .inr ⟨sameMemoryBut_of_store rfl, ha, hphase⟩

theorem StoresAt.of_mem {u : State} (h : StoresAt a phase s u) (hmem : t.mem = u.mem) : StoresAt a phase s t := by
  simpa only [StoresAt, SameMemory, SameMemoryBut, State.readMem, hmem] using h

theorem StoresAt.setCur (h : StoresAt a phase s t) {j : Option InFlight} : StoresAt a phase s (t.setCur j) :=
  h.of_mem (State.setCur_mem t j)

theorem StoresAt.sameMemoryBut (h : StoresAt a phase s t) : SameMemoryBut a s t :=
  h.elim (fun hsame b _ => hsame b) And.left

/-- A byte that has changed is the one stored. -/
theorem StoresAt.of_changed (h : StoresAt a phase s t) {b : Nat} (hb : t.readMem b ≠ s.readMem b) :
    b = a ∧ a ≤ 0xFFFF ∧ phase := by
  obtain hsame | ⟨hbut, ha, hphase⟩ := h
  · exact absurd (hsame b) hb
  · exact ⟨by_contra fun hne => hb (hbut b hne), ha, hphase⟩

end StoresAt

section Storing
variable {s : State} {k : InFlight}

theorem execUartRecvs_frame (p : Addr) (hk : s.cur = some k) :
    Ensures (execUartRecvs p s) fun t => StoresAt k.sp (k.uph = 1 ∨ k.uph = 2) s t ∧ OutsideUartAndMemory s t := by
  have hheld : OutsideUartAndMemory s s := ⟨rfl, ⟨rfl, rfl, rfl⟩, SameControl.around ⟨rfl⟩⟩
  have hends {u : State} {j : Option InFlight} (hu : SameControl s u) (hspi : u.spi = s.spi) (hi2c : SameI2c s u)
      (hmem : StoresAt k.sp (k.uph = 1 ∨ k.uph = 2) s u) :
      StoresAt k.sp (k.uph = 1 ∨ k.uph = 2) s (u.setCur j) ∧ OutsideUartAndMemory s (u.setCur j) :=
    ⟨hmem.setCur, outsideUartAndMemory_setCur hu hspi hi2c j⟩
  refine ensures_microStep fun l hl _ => ?_
  obtain rfl : k = l := by simpa [hk] using hl
  split
  · exact ensures_holdUntil ⟨.inl (sameMemory_refl s), hheld⟩
      (ensures_next (hends ⟨rfl⟩ rfl ⟨rfl, rfl, rfl⟩ (.inl (sameMemory_of_mem rfl))))
  · next hu =>
    split
    · exact ensures_next (hends ⟨rfl⟩ rfl ⟨rfl, rfl, rfl⟩ (.inl (sameMemory_refl s)))
    · exact ensures_holdUntil ⟨.inl (sameMemory_refl s), hheld⟩ (ensures_storeByte fun ha =>
        ensures_next (hends ⟨rfl⟩ rfl ⟨rfl, rfl, rfl⟩ (.of_mem (.stored ha (.inl hu)) rfl)))
  · next hu =>
    exact ensures_storeByte fun ha => ensures_next (hends ⟨rfl⟩ rfl ⟨rfl, rfl, rfl⟩ (.stored ha (.inr hu)))
  · trivial

theorem execSpiRecvs_frame (p : Addr) (hk : s.cur = some k) :
    Ensures (execSpiRecvs p s) fun t => StoresAt k.sp (k.uph = 1 ∨ k.uph = 2) s t ∧ OutsideSpiAndMemory s t := by
  have hheld : OutsideSpiAndMemory s s := ⟨rfl, ⟨rfl, rfl, rfl⟩, SameControl.around ⟨rfl⟩⟩
  have hends {u : State} {j : Option InFlight} (hu : SameControl s u) (huart : u.uart = s.uart) (hi2c : SameI2c s u)
      (hmem : StoresAt k.sp (k.uph = 1 ∨ k.uph = 2) s u) :
      StoresAt k.sp (k.uph = 1 ∨ k.uph = 2) s (u.setCur j) ∧ OutsideSpiAndMemory s (u.setCur j) :=
    ⟨hmem.setCur, outsideSpiAndMemory_setCur hu huart hi2c j⟩
  refine ensures_microStep fun l hl _ => ?_
  obtain rfl : k = l := by simpa [hk] using hl
  split
  · exact ensures_holdUntil ⟨.inl (sameMemory_refl s), hheld⟩
      (ensures_next (hends ⟨rfl⟩ rfl ⟨rfl, rfl, rfl⟩ (.inl (sameMemory_of_mem rfl))))
  · next hu =>
    split
    · exact ensures_next (hends ⟨rfl⟩ rfl ⟨rfl, rfl, rfl⟩ (.inl (sameMemory_refl s)))
    · exact ensures_holdUntil ⟨.inl (sameMemory_refl s), hheld⟩ (ensures_storeByte fun ha =>
        ensures_next (hends ⟨rfl⟩ rfl ⟨rfl, rfl, rfl⟩ (.of_mem (.stored ha (.inl hu)) rfl)))
  · next hu =>
    exact ensures_storeByte fun ha => ensures_next (hends ⟨rfl⟩ rfl ⟨rfl, rfl, rfl⟩ (.stored ha (.inr hu)))
  · trivial

/-- The issue steps of the EEPROM sequences write the I2C unit only. -/
theorem eepromSend_outside (b : Byte) (n : Nat) : Ensures (eepromSend b s k n) (OutsideI2c s) :=
  ensures_i2cIssue fun _ => ensures_next (outsideI2cUnit_setCur _).1

theorem eepromIssue_outside (x : I2cOp) (n : Nat) : Ensures (eepromIssue x s k n) (OutsideI2c s) :=
  ensures_i2cIssue fun _ => ensures_next (outsideI2cUnit_setCur _).1

/-- A check after the work `u` of a micro-step writes the bank of the current context only. -/
theorem checkStatus_outside (code : Byte) (n : Nat) {u : State} (hu : SameControl s u) :
    Ensures (checkStatus code u k n) fun t => t.uart = u.uart ∧ t.spi = u.spi ∧ t.mem = u.mem ∧ SameAround s t := by
  obtain ⟨t, ht, -, huart, hspi, -, hmem, haround⟩ := checkStatus_ends (k := k) (n := n) (code := code) hu
  rw [ht]
  exact ensures_next ⟨huart, hspi, hmem, haround⟩

theorem eepromWait_outside (code : Byte) (n : Nat) : Ensures (eepromWait code s k n) (OutsideI2c s) := by
  refine ensures_holdUntil ⟨rfl, rfl, sameMemory_refl s, SameControl.around ⟨rfl⟩⟩ ?_
  refine (checkStatus_outside (s := s) code n ⟨rfl⟩).mono ?_
  rintro t ⟨huart, hspi, hmem, haround⟩
  exact ⟨huart, hspi, sameMemory_of_mem hmem, haround⟩

theorem eepromFinish_outside (s : State) : Ensures (eepromFinish s) (OutsideI2c s) := by
  obtain ⟨t, c, ht, -, -, -, hout⟩ := eepromFinish_ends s
  rw [ht]
  exact ensures_next hout

theorem execEeRead_frame (ea : EepromAddr) (out : Addr) (hk : s.cur = some k) :
    Ensures (execEeRead ea out s) fun t =>
      StoresAt out.toNat (k.uph = 11) s t ∧ t.uart = s.uart ∧ t.spi = s.spi ∧ SameAround s t := by
  have hkeeps {r : Result} (h : Ensures r (OutsideI2c s)) : Ensures r fun t =>
      StoresAt out.toNat (k.uph = 11) s t ∧ t.uart = s.uart ∧ t.spi = s.spi ∧ SameAround s t :=
    h.mono fun t ⟨huart, hspi, hmem, haround⟩ => ⟨.inl hmem, huart, hspi, haround⟩
  refine ensures_microStep fun l hl _ => ?_
  obtain rfl : k = l := by simpa [hk] using hl
  split
  · exact hkeeps (eepromIssue_outside _ _)
  · exact hkeeps (eepromWait_outside _ _)
  · exact hkeeps (eepromSend_outside _ _)
  · exact hkeeps (eepromWait_outside _ _)
  · exact hkeeps (eepromSend_outside _ _)
  · exact hkeeps (eepromWait_outside _ _)
  · exact hkeeps (eepromIssue_outside _ _)
  · exact hkeeps (eepromWait_outside _ _)
  · exact hkeeps (eepromSend_outside _ _)
  · exact hkeeps (eepromWait_outside _ _)
  · exact hkeeps (eepromIssue_outside _ _)
  · next hu =>
    refine ensures_holdUntil ⟨.inl (sameMemory_refl s), rfl, rfl, SameControl.around ⟨rfl⟩⟩ (ensures_storeByte fun ha => ?_)
    refine (checkStatus_outside (s := s) (u := s.writeMem out.toNat s.i2c.dr) _ _ ⟨rfl⟩).mono ?_
    rintro t ⟨huart, hspi, hmem, haround⟩
    exact ⟨.of_mem (.stored ha hu) hmem, huart, hspi, haround⟩
  · exact hkeeps (eepromFinish_outside s)
  · trivial

end Storing

/-- Settles O49: the one byte a storing command may change is the one at the address it computes. -/
theorem storingCommandsFrame : Obligations.StoringCommandsFrame := by
  intro s t k p out ea hk
  refine ⟨fun ht => ?_, fun ht => ?_, fun ht => ?_⟩
  · obtain ⟨hmem, hout⟩ := ensures_iff.mp (execUartRecvs_frame p hk) t ht
    exact ⟨hmem.sameMemoryBut, hout⟩
  · obtain ⟨hmem, hout⟩ := ensures_iff.mp (execSpiRecvs_frame p hk) t ht
    exact ⟨hmem.sameMemoryBut, hout⟩
  · obtain ⟨hmem, hout⟩ := ensures_iff.mp (execEeRead_frame ea out hk) t ht
    exact ⟨hmem.sameMemoryBut, hout⟩

/-! ### A write that races with a string command in flight (R74; log entries 9 and 32) -/

/-- A byte lies in the buffer of a context's command in flight where that command claims it. -/
theorem bank_inBuffer_iff (s : State) (a : Addr) (c : Ctx) :
    s.inBuffer (s.bank c) a.toNat = true ↔ ∃ k, (s.bank c).cur = some k ∧ k.claims s a.toNat :=
  inBuffer_iff_claims s _ (Nat.le_of_lt_succ a.isLt)

theorem hostWrite_refused {s : State} {a : Addr} (v : Byte) {c : Ctx} {k : InFlight} (hk : (s.bank c).cur = some k)
    (hclaim : k.claims s a.toNat) : hostWrite a v s = .refused .bufferRace := by
  have hin : s.inBuffer (s.bank c) a.toNat = true := (bank_inBuffer_iff s a c).mpr ⟨k, hk, hclaim⟩
  refine if_neg ?_
  rintro ⟨hfg, hisr⟩
  cases c with
  | fg => simp [hfg] at hin
  | isr => simp [hisr] at hin

theorem hostWrite_made {s : State} {a : Addr} (v : Byte)
    (hfree : ∀ c k, (s.bank c).cur = some k → ¬ k.claims s a.toNat) :
    hostWrite a v s = .next (s.writeMem a.toNat v) := by
  have hout (c : Ctx) : s.inBuffer (s.bank c) a.toNat = false := Bool.eq_false_iff.mpr fun hin => by
    obtain ⟨k, hk, hclaim⟩ := (bank_inBuffer_iff s a c).mp hin
    exact hfree c k hk hclaim
  exact if_pos ⟨hout .fg, hout .isr⟩

/-- Settles O50: the test of HOST's write and of a handler's store against a buffer is that of the claims. -/
theorem bufferRaceIsRefused : Obligations.BufferRaceIsRefused := by
  refine ⟨fun s rest a v hturns => ?_, fun s suspended k a hctx hfg hclaim ha => ⟨?_, ?_, ?_⟩⟩
  · rw [step_cons hturns]
    exact ⟨fun c k hk hclaim => hostWrite_refused (s := { s with turns := rest }) v hk hclaim,
      hostWrite_made (s := { s with turns := rest }) v⟩
  · rintro p (⟨⟨hk, -, hu⟩, hsn, hrxc⟩ | ⟨hk, -, hu⟩) rfl
    · exact (exec_uartRecvs_stores hk hu hsn hrxc).trans (storeByte_race hctx hfg hclaim ha)
    · exact (exec_uartRecvs_terminator hk hu).trans (storeByte_race hctx hfg hclaim ha)
  · rintro p (⟨⟨hk, -, hu⟩, hsn, htc⟩ | ⟨hk, -, hu⟩) rfl
    · exact (exec_spiRecvs_stores hk hu hsn htc).trans (storeByte_race hctx hfg hclaim ha)
    · exact (exec_spiRecvs_terminator hk hu).trans (storeByte_race hctx hfg hclaim ha)
  · rintro ea out ⟨hk, -, hu⟩ hdone rfl
    exact ((exec_eeRead_store hk hu).trans (holdUntil_open hdone)).trans (storeByte_race hctx hfg hclaim ha)

/-! ### The commands that store nothing -/

/-- The commands other than the three storing ones leave host memory as it is (R70). -/
theorem exec_keepsMemory {i : Instr} (s : State) (hi : storesToMemory i = false) : Ensures (exec i s) (SameMemory s) := by
  have hmem {t : State} (h : t.mem = s.mem) : Ensures (.next t) (SameMemory s) := ensures_next (sameMemory_of_mem h)
  have hheld : SameMemory s s := sameMemory_refl s
  have hsame (t : State) : OutsideI2c s t → SameMemory s t := fun ⟨_, _, h, _⟩ => h
  cases i with
  | uartRecvs | spiRecvs | eeRead => cases hi
  | iret | i2cStatus | eeInit | spiInitm | spiInits | spiSetcb | i2cInit =>
    refine ensures_microStep fun k _ _ => ?_
    split
    · exact hmem (by simp)
    · trivial
  | uartInit =>
    refine ensures_microStep fun k _ _ => ?_
    split
    · split
      · trivial
      · exact hmem (by simp)
    · trivial
  | uartSetcb =>
    refine ensures_microStep fun k _ _ => ?_
    split
    · split <;> exact hmem (by simp)
    · trivial
  | uartSend | uartRecv | spiRecv =>
    refine ensures_microStep fun k _ _ => ?_
    split
    · exact ensures_holdUntil hheld (hmem (by simp))
    · trivial
  | spiSend =>
    refine ensures_microStep fun k _ _ => ?_
    split
    · exact hmem (by simp)
    · exact ensures_holdUntil hheld (hmem (by simp))
    · trivial
  | uartSends =>
    refine ensures_microStep fun k _ _ => ?_
    split
    · exact hmem (by simp)
    · exact ensures_loadByte fun _ => hmem (by simp)
    · refine ensures_holdUntil hheld ?_
      split <;> exact hmem (by simp)
    · trivial
  | spiSends =>
    refine ensures_microStep fun k _ _ => ?_
    split
    · exact hmem (by simp)
    · exact ensures_loadByte fun _ => hmem (by simp)
    · exact hmem (by simp)
    · refine ensures_holdUntil hheld ?_
      split <;> exact hmem (by simp)
    · trivial
  | i2cStart =>
    refine ensures_microStep fun k _ _ => ?_
    split
    · exact ensures_i2cIssue fun _ => hmem (by simp)
    · exact ensures_holdUntil hheld (hmem (by simp))
    · trivial
  | i2cWrite | i2cRdack | i2cRdnack =>
    refine ensures_microStep fun k _ _ => ?_
    split
    · exact ensures_require fun _ => ensures_i2cIssue fun _ => hmem (by simp)
    · exact ensures_holdUntil hheld (hmem (by simp))
    · trivial
  | i2cStop =>
    refine ensures_microStep fun k _ _ => ?_
    split
    · exact ensures_require fun _ => hmem (by simp)
    · trivial
  | eeWrite =>
    refine ensures_microStep fun k _ _ => ?_
    split
    · exact (eepromIssue_outside _ _).mono hsame
    · exact (eepromWait_outside _ _).mono hsame
    · exact (eepromSend_outside _ _).mono hsame
    · exact (eepromWait_outside _ _).mono hsame
    · exact (eepromSend_outside _ _).mono hsame
    · exact (eepromWait_outside _ _).mono hsame
    · exact (eepromSend_outside _ _).mono hsame
    · exact (eepromWait_outside _ _).mono hsame
    · exact (eepromFinish_outside s).mono hsame
    · trivial

end Sys2Proof.Proofs
end

section
/-!
PROOFS. The writers of host memory and of the memory of the reference device, over one step of the machine (20_memory.md
rules R70 and R72, 44_eeprom.md rule R254; log entry 28).
-/

namespace Sys2Proof.Proofs

open Sys2Proof Sys2Proof.Machine

/-! ### Host memory -/

/-- The command in flight is one that stores, at a micro-step in which it may store the byte at `a` (R145, R182, R246). -/
def StoringAt (k : InFlight) (a : Nat) : Prop :=
  (∃ p, decode k.word = .ok (.uartRecvs p) ∧ (k.uph = 1 ∨ k.uph = 2) ∧ a = k.sp) ∨
    (∃ p, decode k.word = .ok (.spiRecvs p) ∧ (k.uph = 1 ∨ k.uph = 2) ∧ a = k.sp) ∨
      ∃ ea out, decode k.word = .ok (.eeRead ea out) ∧ k.uph = 11 ∧ a = out.toNat

/-- A byte that CMD changes is one that the command in flight stores. -/
theorem cmdStep_writes (s : State) : Ensures (cmdStep s) fun t => ∀ a, t.readMem a ≠ s.readMem a →
    ∃ k, s.cur = some k ∧ a ≤ 0xFFFF ∧ StoringAt k a := by
  cases hk : s.cur with
  | none =>
    rw [cmdStep, hk]
    exact ensures_next fun a ha => absurd rfl ha
  | some k =>
    cases hd : decode k.word with
    | error e => simp [cmdStep, hk, hd, Ensures]
    | ok i =>
      rw [cmdStep_inFlight hk hd]
      cases i with
      | uartRecvs p =>
        refine (execUartRecvs_frame p hk).mono fun t ⟨hmem, _⟩ a ha => ?_
        obtain ⟨rfl, hsp, hphase⟩ := hmem.of_changed ha
        exact ⟨k, rfl, hsp, .inl ⟨p, hd, hphase, rfl⟩⟩
      | spiRecvs p =>
        refine (execSpiRecvs_frame p hk).mono fun t ⟨hmem, _⟩ a ha => ?_
        obtain ⟨rfl, hsp, hphase⟩ := hmem.of_changed ha
        exact ⟨k, rfl, hsp, .inr (.inl ⟨p, hd, hphase, rfl⟩)⟩
      | eeRead ea out =>
        refine (execEeRead_frame ea out hk).mono fun t ⟨hmem, _⟩ a ha => ?_
        obtain ⟨rfl, hout, hphase⟩ := hmem.of_changed ha
        exact ⟨k, rfl, hout, .inr (.inr ⟨ea, out, hd, hphase, rfl⟩)⟩
      | _ => exact (exec_keepsMemory s rfl).mono fun t hmem a ha => absurd (hmem a) ha

/-! ### The memory of the reference device (R254) -/

/-- I2B hands a data byte to the device in a data write, and the memory is then `m`: the first byte of a transaction is
stored at the pointer (R254; log entry 28). -/
structure DataWrite (s : State) (m : Memory) : Prop where
  op : s.i2c.op = some .write
  ph : s.i2c.ph = .mt
  dst : s.dev.dst = .dataW
  first : s.dev.stored = false → m = Memory.write Config.eeBlank s.dev.eep s.dev.dptr.toNat s.i2c.dr

/-- The device changes its memory at a data byte of a data write only. -/
theorem deviceReply_dataWrite (s : State) (declines : Bool) :
    (s.deviceReply declines).2.eep = s.dev.eep ∨ DataWrite s (s.deviceReply declines).2.eep := by
  unfold State.deviceReply
  split
  · exact .inl rfl
  · unfold Device.onAddress
    split
    · split
      · exact .inl rfl
      · split <;> exact .inl rfl
    all_goals exact .inl rfl
  · next hop hph =>
    unfold Device.onData
    split
    · exact .inl rfl
    · next hdst =>
      split
      · next hstored => exact .inr ⟨hop, hph, hdst, fun h => by simp [hstored] at h⟩
      · exact .inr ⟨hop, hph, hdst, fun _ => rfl⟩
    all_goals exact .inl rfl
  · unfold Device.onRead
    split <;> exact .inl rfl
  · unfold Device.onRead
    split <;> exact .inl rfl
  · exact .inl rfl

theorem i2bDeviceStep_memories (declines : Bool) (s : State) :
    (i2bDeviceStep declines s).mem = s.mem ∧
      ((i2bDeviceStep declines s).dev.eep = s.dev.eep ∨ DataWrite s (i2bDeviceStep declines s).dev.eep) := by
  unfold i2bDeviceStep
  split
  · exact ⟨rfl, .inl rfl⟩
  · obtain ⟨u, n, hu, -⟩ := i2bStep_bus (s.deviceReply declines).1
      { s with dev := (s.deviceReply declines).2, draws := s.draws + 1 }
    rw [hu]
    exact ⟨rfl, deviceReply_dataWrite s declines⟩

theorem DataWrite.of_changed {s : State} {m : Memory} (h : DataWrite s m) (hfirst : s.dev.stored = false) {a : Nat}
    (ha : Memory.read Config.eeBlank m a ≠ Memory.read Config.eeBlank s.dev.eep a) :
    a = s.dev.dptr.toNat ∧ (Memory.wf Config.eeBlank Config.eeSize s.dev.eep = true →
      Memory.read Config.eeBlank m a = s.i2c.dr) := by
  obtain rfl := h.first hfirst
  obtain rfl : a = s.dev.dptr.toNat := by_contra fun hne => ha (Memory.read_write_other _ _ _ hne)
  exact ⟨rfl, fun hwf => Memory.read_write_same hwf _ _⟩

/-! ### The other turns -/

/-- Both memories are as before. -/
def SameMemories (s t : State) : Prop := t.mem = s.mem ∧ t.dev.eep = s.dev.eep

/-- No micro-step writes the memory of the device. -/
theorem cmdStep_eep (s : State) : Ensures (cmdStep s) fun t => t.dev.eep = s.dev.eep := by
  unfold cmdStep
  split
  · exact ensures_next rfl
  · split
    · exact ensures_refused
    · next i _ =>
      refine (exec_micro i s).mono fun t hm => ?_
      obtain ⟨u, hw, -, -, -, -, -, hdev, -⟩ := hm.works
      rw [hdev, hw.eep]

/-- The turns other than CMD's, HOST's writes and those of the reference device leave both memories as they are. -/
theorem takeTurn_sameMemories {turn : Turn} (s : State) (hcmd : turn ≠ .cmd) (hwrite : ∀ b v, turn ≠ .hostWrite b v)
    (hdevice : ∀ declines, turn ≠ .i2bDevice declines) : Ensures (takeTurn turn s) (SameMemories s) := by
  cases turn with
  | cmd => exact absurd rfl hcmd
  | hostWrite b v => exact absurd rfl (hwrite b v)
  | i2bDevice declines => exact absurd rfl (hdevice declines)
  | issue c w =>
    refine ensures_iff.mpr fun t ht => ?_
    obtain ⟨-, -, i, -, -, rfl⟩ := hostIssue_next.mp ht
    exact ⟨by simp, by simp⟩
  | utx =>
    obtain ⟨u, hu, -⟩ := utxStep_line s
    rw [takeTurn, hu]
    exact ensures_next ⟨rfl, rfl⟩
  | urx o =>
    obtain ⟨u, n, hu, -⟩ := urxStep_line o s
    rw [takeTurn, hu]
    exact ensures_next ⟨rfl, rfl⟩
  | spxMaster p =>
    obtain ⟨u, hu, -⟩ := spxMasterStep_wire p s
    rw [takeTurn, hu]
    exact ensures_next ⟨rfl, rfl⟩
  | spxSlave m =>
    obtain ⟨u, hu, -⟩ := spxSlaveStep_wire m s
    rw [takeTurn, hu]
    exact ensures_next ⟨rfl, rfl⟩
  | i2b r =>
    obtain ⟨u, n, hu, -⟩ := i2bStep_bus r s
    rw [takeTurn, hu]
    exact ensures_next ⟨rfl, rfl⟩
  | irq src honoured =>
    show Ensures (irqStep src honoured s) _
    unfold irqStep
    split
    · refine ensures_iff.mpr fun t ht => ?_
      obtain ⟨-, rfl⟩ | ⟨f, -, -, rfl⟩ := takeInterrupt_next.mp ht <;> exact ⟨rfl, rfl⟩
    · exact ensures_next ⟨rfl, rfl⟩
  | powerOn => exact ensures_next ⟨rfl, powerOn_eep s⟩

/-- Settles O48: turn by turn, what may change in the two memories. -/
theorem memoryWriters : Obligations.MemoryWriters := by
  intro s t a h
  have hmem (hkept : t.mem = s.mem) (hne : t.readMem a ≠ s.readMem a) : False := hne (sameMemory_of_mem hkept a)
  have heep (hkept : t.dev.eep = s.dev.eep)
      (hne : Memory.read Config.eeBlank t.dev.eep a ≠ Memory.read Config.eeBlank s.dev.eep a) : False :=
    hne (by rw [hkept])
  cases hturns : s.turns with
  | nil =>
    rw [step_nil hturns] at h
    cases h
    exact ⟨fun hne => (hmem rfl hne).elim, fun hne => (heep rfl hne).elim⟩
  | cons turn rest =>
    rw [step_cons hturns] at h
    cases turn with
    | cmd =>
      have hkept : t.dev.eep = s.dev.eep := ensures_iff.mp (cmdStep_eep { s with turns := rest }) t h
      refine ⟨fun hne => ?_, fun hne => (heep hkept hne).elim⟩
      obtain ⟨k, hk, ha, hstoring⟩ := ensures_iff.mp (cmdStep_writes { s with turns := rest }) t h a hne
      exact .inr ⟨rest, k, rfl, hk, ha, hstoring⟩
    | hostWrite b v =>
      obtain ⟨-, rfl⟩ := hostWrite_next.mp h
      refine ⟨fun hne => .inl ⟨b, v, rest, rfl, ?_⟩, fun hne => (heep rfl hne).elim⟩
      exact by_contra fun hab => hne (Memory.read_write_other _ _ _ hab)
    | i2bDevice declines =>
      obtain ⟨hm, he⟩ := i2bDeviceStep_memories declines { s with turns := rest }
      cases h
      refine ⟨fun hne => (hmem hm hne).elim, fun hne => ?_⟩
      have hw := he.resolve_left fun hkept => heep hkept hne
      exact ⟨⟨declines, rest, rfl⟩, hw.op, hw.ph, hw.dst, fun hfirst => hw.of_changed hfirst hne⟩
    | _ =>
      obtain ⟨hm, he⟩ := ensures_iff.mp (takeTurn_sameMemories _ (by simp) (by simp) (by simp)) t h
      exact ⟨fun hne => (hmem hm hne).elim, fun hne => (heep he hne).elim⟩

end Sys2Proof.Proofs
end

section
/-!
PROOFS. Runs along a written-out schedule (log entry 1): what a list of turns leads to, put together turn by turn.
-/

namespace Sys2Proof.Proofs

open Sys2Proof Sys2Proof.Machine

/-- A run of `n + m` steps goes on from where its first `n` steps end. -/
theorem run_add {M : Host.Core} {n : Nat} (m : Nat) {s u : M.State} (h : M.run n s = .next u) :
    M.run (n + m) s = M.run m u := by
  induction n generalizing s with
  | zero =>
    cases h
    rw [Nat.zero_add]
  | succ n ih =>
    rw [Nat.succ_add, Host.Core.run]
    rw [Host.Core.run] at h
    cases hs : M.step s with
    | next t =>
      rw [hs] at h
      exact ih h
    | fault r => simp [hs] at h
    | refused r => simp [hs] at h

theorem run_one {M : Host.Core} {s u : M.State} (h : M.step s = .next u) : M.run 1 s = .next u := by
  simp only [Host.Core.run, h]

/-- The turns lead from `s` to a state with the property, whatever turns are to come after them. -/
def Leads (s : State) (ts : List Turn) (Q : State → Prop) : Prop :=
  ∀ rest, ∃ u : State, Sys2Proof.core.run ts.length { s with turns := ts ++ rest } = .next u ∧ u.turns = rest ∧ Q u

section Leads
variable {s : State} {Q R : State → Prop}

theorem Leads.mono {ts : List Turn} (h : Leads s ts Q) (hQR : ∀ u, Q u → R u) : Leads s ts R := fun rest => by
  obtain ⟨u, hrun, hturns, hu⟩ := h rest
  exact ⟨u, hrun, hturns, hQR u hu⟩

/-- One turn, taken in the state without it. -/
theorem Leads.turn {turn : Turn}
    (h : ∀ rest, ∃ u, takeTurn turn { s with turns := rest } = .next u ∧ u.turns = rest ∧ Q u) : Leads s [turn] Q :=
  fun rest => by
    obtain ⟨u, hu, hturns, hQ⟩ := h rest
    have hstep : step { s with turns := turn :: rest } = .next u := (step_cons rfl).trans hu
    exact ⟨u, run_one hstep, hturns, hQ⟩

/-- One turn of CMD. -/
theorem Leads.cmd {k : InFlight} {i : Instr} (hk : s.cur = some k) (hi : k.instr = some i)
    (h : ∀ rest, ∃ u, exec i { s with turns := rest } = .next u ∧ u.turns = rest ∧ Q u) : Leads s [.cmd] Q := by
  have hd : decode k.word = .ok i := by
    unfold InFlight.instr at hi
    cases hd : decode k.word with
    | error e => simp [hd] at hi
    | ok j => simpa [hd] using hi
  refine .turn fun rest => ?_
  obtain ⟨u, hu, hturns, hQ⟩ := h rest
  exact ⟨u, (cmdStep_inFlight (s := { s with turns := rest }) hk hd).trans hu, hturns, hQ⟩

theorem Leads.append {ts us : List Turn} (h : Leads s ts Q) (hQ : ∀ u, Q u → Leads u us R) : Leads s (ts ++ us) R :=
  fun rest => by
    obtain ⟨u, hrun, hturns, hu⟩ := h (us ++ rest)
    obtain ⟨v, hrun', hturns', hv⟩ := hQ u hu rest
    rw [turns_restored hturns] at hrun'
    refine ⟨v, ?_, hturns', hv⟩
    rw [List.length_append, List.append_assoc]
    exact (run_add _ hrun).trans hrun'

theorem Leads.runs {ts : List Turn} (h : Leads s ts Q) : ∃ t, runs s ts t ∧ Q t := by
  obtain ⟨t, hrun, -, ht⟩ := h []
  rw [List.append_nil] at hrun
  exact ⟨t, hrun, ht⟩

end Leads

end Sys2Proof.Proofs
end

section
/-!
PROOFS. A whole string sent and a whole string received over the UART, each on one schedule (41_uart.md rules R142 and R145,
20_memory.md rule R75; log entry 1).
-/

namespace Sys2Proof.Proofs

open Sys2Proof Sys2Proof.Machine

/-! ### `UART_SENDS`, micro-step by micro-step (R142) -/

section UartSends
variable {s : State} {k : InFlight} {p : Addr}

theorem admission_uartSends (hsend : s.sendAdmitted) (hover : s.noOverlap (.uartSends p)) :
    admission s (.uartSends p) = none := by
  obtain ⟨hinit, hpoll⟩ := hsend
  refine admission_none.mpr ⟨rfl, hover, ?_⟩
  simpa [modeRefusal, modeRefusal.uartSendRefusal, hinit] using hpoll

/-- At u0 the pointer is set. -/
theorem exec_uartSends_start (hk : s.cur = some k) (hu : k.uph = 0) (ha : admission s (.uartSends p) = none) :
    exec (.uartSends p) s = .next (s.goto { k with sp := p.toNat } 1) := by
  cases k
  cases hu
  exact microStep_run hk fun _ => ha

/-- At u1 the next byte is read. -/
theorem exec_uartSends_load (hk : s.cur = some k) (hu : k.uph = 1) (hsp : k.sp ≤ 0xFFFF) :
    exec (.uartSends p) s = .next (s.goto { k with tmp := s.readMem k.sp } 2) := by
  cases k
  cases hu
  exact (microStep_run hk (fun h => nomatch h)).trans (if_pos hsp)

/-- At u2 the byte is sent, and a zero byte ends the command. -/
theorem exec_uartSends_send (hk : s.cur = some k) (hu : k.uph = 2) (htxe : s.uart.txe = true) :
    exec (.uartSends p) s =
      if k.tmp = 0 then .next (s.sendStep k.tmp).complete
      else .next ((s.sendStep k.tmp).goto { k with sp := k.sp + 1 } 1) := by
  cases k
  cases hu
  exact (microStep_run hk (fun h => nomatch h)).trans (if_pos htxe)

end UartSends

/-! ### A string sent (R75, R150) -/

/-- The frame that the unit puts on the line for a byte (R136, R150). -/
def frameOf (u : Uart) (b : Byte) : TxFrame :=
  ⟨wordLength u.wlen, u.par, b &&& u.mask, parbit u.par (b &&& u.mask) (wordLength u.wlen)⟩

/-- The unit after it has framed the bytes, the last of them `b`. -/
def framed (u : Uart) (bs : List Byte) (b : Byte) : Uart :=
  { u with txd := b &&& u.mask, txe := true, txline := u.txline ++ (bs ++ [b]).map (frameOf u) }

/-- The framing of a byte changes nothing that a later frame depends on. -/
theorem framed_framed (u : Uart) (b : Byte) (bs : List Byte) (c : Byte) :
    framed (framed u [] b) bs c = framed u (b :: bs) c := by
  show { u with txd := c &&& u.mask, txe := true,
                txline := u.txline ++ [frameOf u b] ++ (bs ++ [c]).map (frameOf u) } = framed u (b :: bs) c
  rw [List.append_assoc]
  rfl

/-- What the sending of a string reads and writes of the state: host memory, the UART and the command in flight. -/
structure Looks (m : Memory) (u : Uart) (c : Option InFlight) (s : State) : Prop where
  mem : s.mem = m
  uart : s.uart = u
  cur : s.cur = c

section Sending
variable {s : State} {k : InFlight} {p : Addr} {m : Memory} {u : Uart}

theorem utxStep_frames (htxen : s.uart.txen = true) (b : Byte) (htxd : s.uart.txd = b &&& s.uart.mask)
    (htxe : s.uart.txe = false) :
    utxStep s = { s with uart := { s.uart with txline := s.uart.txline ++ [frameOf s.uart b], txe := true } } := by
  have hd : s.uart.txd &&& wmask (wordLength s.uart.wlen) = b &&& s.uart.mask := by
    rw [htxd]
    show b &&& s.uart.mask &&& s.uart.mask = _
    rw [BitVec.and_assoc, BitVec.and_self]
  simp only [utxStep, htxen, htxe, and_self, if_true, hd, frameOf]

/-- One byte is read, sent and framed, in three turns. -/
theorem sends_byte {b : Byte} (h : Looks m u (some k) s) (hi : k.instr = some (.uartSends p)) (hu : k.uph = 1)
    (hsp : k.sp ≤ 0xFFFF) (htxen : u.txen = true) (htxe : u.txe = true)
    (hb : Memory.read Config.memBlank m k.sp = b) :
    Leads s [.cmd, .cmd, .utx]
      (Looks m (framed u [] b) (if b = 0 then none else some { k with sp := k.sp + 1, tmp := b, uph := 1 })) := by
  obtain ⟨rfl, rfl, hk⟩ := h
  subst hb
  set b := s.readMem k.sp with hb
  have hload : Leads s [.cmd] (Looks s.mem s.uart (some { k with tmp := b, uph := 2 })) :=
    .cmd hk hi fun rest => ⟨_, exec_uartSends_load (s := { s with turns := rest }) hk hu hsp, by simp,
      by simp, by simp, by simp [hb, State.readMem]⟩
  refine hload.append (us := [.cmd, .utx]) fun t ⟨hmem, huart, hcur⟩ => ?_
  have hsend : Leads t [.cmd] (Looks s.mem { s.uart with txd := b &&& s.uart.mask, txe := false }
      (if b = 0 then none else some { k with sp := k.sp + 1, tmp := b, uph := 1 })) := by
    refine .cmd hcur hi fun rest => ?_
    rw [exec_uartSends_send (s := { t with turns := rest }) hcur rfl (huart ▸ htxe)]
    split
    · exact ⟨_, rfl, by simp, by simp [hmem], by simp [huart], by simp⟩
    · exact ⟨_, rfl, by simp, by simp [hmem], by simp [huart], by simp⟩
  refine hsend.append (us := [.utx]) fun v ⟨hmem, huart, hcur⟩ => .turn fun rest => ?_
  have hutx := utxStep_frames (s := { v with turns := rest }) (huart ▸ htxen) b (huart ▸ rfl) (huart ▸ rfl)
  refine ⟨_, congrArg Host.Outcome.next hutx, rfl, hmem, ?_, hcur⟩
  simp only [huart]
  rfl

/-- The string from the pointer on, and its terminator. -/
theorem sends_string {bs : List Byte} (h : Looks m u (some k) s) (hi : k.instr = some (.uartSends p)) (hu : k.uph = 1)
    (hsp : k.sp + bs.length ≤ 0xFFFF) (htxen : u.txen = true) (htxe : u.txe = true) (hne : ∀ b ∈ bs, b ≠ 0)
    (hread : ∀ n (hn : n < bs.length), Memory.read Config.memBlank m (k.sp + n) = bs[n])
    (hend : Memory.read Config.memBlank m (k.sp + bs.length) = 0) :
    Leads s (List.replicate (bs.length + 1) [Turn.cmd, .cmd, .utx]).flatten (Looks m (framed u bs 0) none) := by
  induction bs generalizing s k u with
  | nil => exact sends_byte h hi hu hsp htxen htxe hend
  | cons b bs ih =>
    have hb : Memory.read Config.memBlank m k.sp = b := hread 0 (by simp)
    have hb0 : b ≠ 0 := hne b (by simp)
    simp only [List.length_cons] at hsp hend
    have hbyte := sends_byte h hi hu (by omega) htxen htxe hb
    rw [if_neg hb0] at hbyte
    refine hbyte.append fun t ht => ?_
    have hrest := ih ht hi rfl (by simp only; omega) htxen rfl (fun c hc => hne c (by simp [hc]))
      (fun n hn => (congrArg _ (Nat.add_right_comm k.sp 1 n)).trans (hread (n + 1) (Nat.succ_lt_succ hn)))
      ((congrArg _ (Nat.add_right_comm k.sp 1 bs.length)).trans hend)
    rwa [framed_framed] at hrest

end Sending

/-- Settles O25: the pointer is set, and then byte by byte the string is read, sent and framed. -/
theorem uartSendsSendsTheString : Obligations.UartSendsSendsTheString := by
  rintro s k p bs w ⟨hk, hi, hu⟩ hsend hover htxen htxe rfl hne hsp hread hend
  have hstart : Leads s [.cmd] (Looks s.mem s.uart (some { k with sp := p.toNat, uph := 1 })) :=
    .cmd hk hi fun rest => ⟨_, exec_uartSends_start (s := { s with turns := rest }) hk hu
      (admission_uartSends (s := { s with turns := rest }) hsend hover), by simp, by simp, by simp, by simp⟩
  have hall := hstart.append fun t ht => sends_string ht hi rfl hsp htxen htxe hne hread hend
  obtain ⟨t, hruns, hmem, huart, hcur⟩ := hall.runs
  exact ⟨t, hruns, by rw [huart]; rfl, by rw [huart]; rfl, hcur, sameMemory_of_mem hmem⟩

/-! ### A clean frame (R151, R153) -/

/-- The parity bit of a clean frame, false where there is none. -/
def cleanParity (par : BitVec 2) (w : Nat) (b : Byte) : Bool := (parbit par b w).getD false

/-- LINE offers a clean frame with the byte. -/
def cleanFrame (par : BitVec 2) (w : Nat) (b : Byte) : Turn := .urx (.frame b (cleanParity par w b) true)

theorem parityError_clean (par : BitVec 2) (b : Byte) (w : Nat) :
    parityError par b w (cleanParity par w b) = false := by
  unfold parityError cleanParity
  cases parbit par b w <;> simp

/-- The unit after it has accepted a clean frame with the byte. -/
def accepted (u : Uart) (b : Byte) : Uart :=
  { u with
    rxd := b
    pe := false
    fe := false
    rxc := true
    rxlog := u.rxlog ++
      [⟨b, if u.par = 0 then none else some (cleanParity u.par (wordLength u.wlen) b), true, .accepted⟩] }

theorem receiveFrame_clean {s : State} {b : Byte} (hrxen : s.uart.rxen = true) (hrxc : s.uart.rxc = false)
    (hb : b &&& s.uart.mask = b) :
    s.receiveFrame b (cleanParity s.uart.par (wordLength s.uart.wlen) b) true =
      { s with uart := accepted s.uart b } := by
  have hverdict : s.uart.verdict = .accepted := by simp [Uart.verdict, hrxen, hrxc]
  have hb' : b &&& wmask (wordLength s.uart.wlen) = b := hb
  simp only [State.receiveFrame, hverdict, hb', parityError_clean, framingError, Bool.not_true, accepted]

theorem accepted_recvValue (u : Uart) (b : Byte) : (accepted u b).recvValue = b := by
  simp [accepted, Uart.recvValue, Uart.lineError]

/-! ### A string received (R75, R145, R151) -/

/-- What the reception of bytes into the addresses from `lo` to `hi` needs of the state: a canonical memory, a receiver that
waits for a frame of the word length and parity mode given, and no suspended buffer in the way (R74). -/
structure Receiving (w : Nat) (par : BitVec 2) (lo hi : Nat) (s : State) : Prop where
  wf : Memory.wf Config.memBlank Config.memSize s.mem = true
  rxen : s.uart.rxen = true
  rxc : s.uart.rxc = false
  word : wordLength s.uart.wlen = w
  parity : s.uart.par = par
  free : ∀ a, lo ≤ a → a ≤ hi → s.storeFree a

theorem inBuffer_of_mem {s t : State} (h : t.mem = s.mem) (b : Bank) (x : Nat) : t.inBuffer b x = s.inBuffer b x := by
  simp only [State.inBuffer, h]

/-- An address stays free while the suspended command's buffer stays as it is. -/
theorem storeFree_of_around {s t : State} {x : Nat} (haround : SameAround s t)
    (hbuffer : s.ctx = .isr → t.inBuffer s.fg x = s.inBuffer s.fg x) (hx : s.storeFree x) : t.storeFree x := by
  obtain ⟨-, hctx, -, -, -, hbank⟩ := haround
  intro hisr
  have hs : s.ctx = .isr := hctx ▸ hisr
  have hfg : t.fg = s.fg := hbank .fg (by simp [hs])
  rw [hfg, hbuffer hs, hx hs]

/-- What the reception of a string into the addresses from `a` on has done. -/
structure Received (a : Nat) (bs : List Byte) (s t : State) : Prop where
  bytes : ∀ m (h : m < bs.length), t.readMem (a + m) = bs[m]
  terminator : t.readMem (a + bs.length) = 0
  others : ∀ x, x < a ∨ a + bs.length < x → t.readMem x = s.readMem x
  cur : t.cur = none
  rxc : t.uart.rxc = false

theorem Received.of_sameMemory {a : Nat} {bs : List Byte} {s t u : State} (hmem : SameMemory s t)
    (h : Received a bs t u) : Received a bs s u :=
  { h with others := fun x hx => (h.others x hx).trans (hmem x) }

/-- The first byte is stored, and the rest of the string after it. -/
theorem Received.cons {a : Nat} {b : Byte} {bs : List Byte} {s t u : State} (hb : t.readMem a = b)
    (hother : SameMemoryBut a s t) (h : Received (a + 1) bs t u) : Received a (b :: bs) s u where
  bytes m hm := by
    cases m with
    | zero => exact (h.others a (.inl (Nat.lt_succ_self a))).trans hb
    | succ m => exact (congrArg u.readMem (Nat.add_right_comm a m 1)).trans (h.bytes m (Nat.lt_of_succ_lt_succ hm))
  terminator := (congrArg u.readMem (Nat.add_right_comm a bs.length 1)).trans h.terminator
  others x hx := by
    rw [List.length_cons] at hx
    exact (h.others x (by omega)).trans (hother x (by omega))
  cur := h.cur
  rxc := h.rxc

section Receive
variable {s : State} {k : InFlight} {p : Addr} {w : Nat} {par : BitVec 2}

/-- One frame is taken by URX and then read by CMD. -/
theorem leads_frame_cmd {lo hi : Nat} {b : Byte} {Q : State → Prop} (h : Receiving w par lo hi s)
    (hb : b &&& wmask w = b) (hk : s.cur = some k) (hinstr : k.instr = some (.uartRecvs p))
    (hQ : ∀ rest, ∃ t, exec (.uartRecvs p) { s with uart := accepted s.uart b, turns := rest } = .next t ∧
      t.turns = rest ∧ Q t) : Leads s [cleanFrame par w b, .cmd] Q := by
  obtain ⟨-, hrxen, hrxc, rfl, rfl, -⟩ := h
  have hframe : Leads s [cleanFrame s.uart.par (wordLength s.uart.wlen) b]
      fun t => t = { s with uart := accepted s.uart b, turns := t.turns } :=
    .turn fun rest => ⟨_, congrArg Host.Outcome.next
      (receiveFrame_clean (s := { s with turns := rest }) hrxen hrxc hb), rfl, rfl⟩
  refine hframe.append (us := [.cmd]) fun t ht => ?_
  rw [ht]
  exact .cmd hk hinstr hQ

/-- The length byte. -/
theorem receives_length {hi : Nat} {n : Byte} (h : Receiving w par p.toNat hi s) (hn : n &&& wmask w = n)
    (hat : s.at (.uartRecvs p) 0 k) (hrecv : s.recvAdmitted) (hover : s.noOverlap (.uartRecvs p)) :
    Leads s [cleanFrame par w n, .cmd] fun t => Receiving w par p.toNat hi t ∧
      t.cur = some { k with si := n, sn := n, sp := p.toNat, uph := 1 } ∧ SameMemory s t := by
  obtain ⟨hk, hinstr, hu⟩ := hat
  refine leads_frame_cmd h hn hk hinstr fun rest => ?_
  have hrun := (exec_uartRecvs_length (s := { s with uart := accepted s.uart n, turns := rest }) (p := p) hk hu
    (admission_uartRecvs hrecv hover)).trans (holdUntil_open rfl)
  rw [accepted_recvValue] at hrun
  refine ⟨_, hrun, by simp, ⟨by simpa using h.wf, ?_, by simp, ?_, ?_, fun a hlo hhi => ?_⟩, by simp,
    sameMemory_of_mem (by simp)⟩
  · simpa [accepted] using h.rxen
  · simpa [accepted] using h.word
  · simpa [accepted] using h.parity
  · exact storeFree_of_around (s := { s with uart := accepted s.uart n, turns := rest })
      (sameAround_setCur (SameControl.around ⟨rfl⟩) _) (fun _ => inBuffer_of_mem (by simp) _ _) (h.free a hlo hhi)

/-- One payload byte. -/
theorem receives_byte {hi : Nat} {b : Byte} (h : Receiving w par k.sp hi s) (hb : b &&& wmask w = b)
    (hat : s.at (.uartRecvs p) 1 k) (hsn : k.sn ≠ 0) (hsp : k.sp ≤ 0xFFFF) (hhi : k.sp ≤ hi) :
    Leads s [cleanFrame par w b, .cmd] fun t => Receiving w par (k.sp + 1) hi t ∧
      t.cur = some { k with sp := k.sp + 1, sn := k.sn - 1, uph := 1 } ∧ t.readMem k.sp = b ∧ SameMemoryBut k.sp s t := by
  obtain ⟨hk, hinstr, hu⟩ := hat
  refine leads_frame_cmd h hb hk hinstr fun rest => ?_
  have hfree : s.storeFree k.sp := h.free k.sp (Nat.le_refl _) hhi
  have hrun := (exec_uartRecvs_stores (s := { s with uart := accepted s.uart b, turns := rest }) (p := p) hk hu hsn
    rfl).trans (storeByte_free hsp hfree)
  rw [accepted_recvValue] at hrun
  refine ⟨_, hrun, by simp, ⟨by simpa using Memory.wf_write h.wf (Nat.lt_succ_of_le hsp) b, ?_, by simp, ?_, ?_,
    fun a hlo hhi => ?_⟩, by simp, readMem_of_store h.wf (by simp), sameMemoryBut_of_store (v := b) (by simp)⟩
  · simpa [accepted] using h.rxen
  · simpa [accepted] using h.word
  · simpa [accepted] using h.parity
  · refine storeFree_of_around (s := { s with uart := accepted s.uart b, turns := rest })
      (sameAround_setCur (SameControl.around ⟨rfl⟩) _) (fun hisr => ?_) (h.free a (by omega) hhi)
    exact (inBuffer_of_mem (by simp) _ _).trans (inBuffer_writeMem b (hfree hisr) a)

/-- The end of the payload is seen. -/
theorem receives_end {hi : Nat} (h : Receiving w par k.sp hi s) (hat : s.at (.uartRecvs p) 1 k) (hsn : k.sn = 0) :
    Leads s [.cmd] fun t => Receiving w par k.sp hi t ∧ t.cur = some { k with uph := 2 } ∧ SameMemory s t := by
  obtain ⟨hk, hinstr, hu⟩ := hat
  refine .cmd hk hinstr fun rest => ⟨_, exec_uartRecvs_paid (s := { s with turns := rest }) hk hu hsn, by simp,
    ⟨by simpa using h.wf, by simpa using h.rxen, by simpa using h.rxc, by simpa using h.word, by simpa using h.parity,
      fun a hlo hhi => ?_⟩, by simp, sameMemory_of_mem (by simp)⟩
  exact storeFree_of_around (s := { s with turns := rest }) (sameAround_setCur (SameControl.around ⟨rfl⟩) _)
    (fun _ => inBuffer_of_mem (by simp) _ _) (h.free a hlo hhi)

/-- The terminator is stored. -/
theorem receives_terminator {hi : Nat} (h : Receiving w par k.sp hi s) (hat : s.at (.uartRecvs p) 2 k)
    (hsp : k.sp ≤ 0xFFFF) (hhi : k.sp ≤ hi) : Leads s [.cmd] (Received k.sp [] s) := by
  obtain ⟨hk, hinstr, hu⟩ := hat
  refine .cmd hk hinstr fun rest => ?_
  have hrun := (exec_uartRecvs_terminator (s := { s with turns := rest }) (p := p) hk hu).trans
    (storeByte_free hsp (h.free k.sp (Nat.le_refl _) hhi))
  have hbut : SameMemoryBut k.sp s (({ s with turns := rest } : State).writeMem k.sp 0).complete :=
    sameMemoryBut_of_store (v := 0) (by simp)
  exact ⟨_, hrun, by simp, nofun, readMem_of_store h.wf (by simp), fun x hx => hbut x (by simp at hx; omega), by simp,
    by simpa using h.rxc⟩

/-- The payload from the pointer on, and the terminator after it. -/
theorem receives_string {bs : List Byte} (h : Receiving w par k.sp (k.sp + bs.length) s)
    (hclean : ∀ b ∈ bs, b &&& wmask w = b) (hat : s.at (.uartRecvs p) 1 k) (hsn : k.sn.toNat = bs.length)
    (hsp : k.sp + bs.length ≤ 0xFFFF) :
    Leads s (bs.flatMap (fun b => [cleanFrame par w b, .cmd]) ++ [.cmd, .cmd]) (Received k.sp bs s) := by
  induction bs generalizing s k with
  | nil =>
    have ⟨_, hinstr, _⟩ := hat
    have hzero : k.sn = 0 := BitVec.eq_of_toNat_eq hsn
    refine (receives_end h hat hzero).append (us := [.cmd]) fun t ⟨ht, hcur, hmem⟩ => ?_
    exact (receives_terminator (k := { k with uph := 2 }) ht ⟨hcur, hinstr, rfl⟩ hsp (Nat.le_refl _)).mono
      fun v hv => hv.of_sameMemory hmem
  | cons b bs ih =>
    have ⟨_, hinstr, _⟩ := hat
    rw [List.length_cons] at hsn hsp h
    have hnonzero : k.sn ≠ 0 := fun h0 => by simp [h0] at hsn
    have hleft : (k.sn - 1).toNat = bs.length := by bv_omega
    refine (receives_byte h (hclean b (by simp)) hat hnonzero (by omega) (by omega)).append
      fun t ⟨ht, hcur, hb, hother⟩ => ?_
    refine (ih (k := { k with sp := k.sp + 1, sn := k.sn - 1, uph := 1 }) ?_ (fun c hc => hclean c (by simp [hc]))
      ⟨hcur, hinstr, rfl⟩ hleft (by simp only; omega)).mono fun v hv => hv.cons hb hother
    rwa [Nat.add_right_comm, Nat.add_assoc]

end Receive

/-- Settles O26: the length byte, then byte by byte the payload, and the terminator. -/
theorem uartRecvsStoresTheString : Obligations.UartRecvsStoresTheString := by
  rintro s k p bs n w frame hat hrecv hover hfree hwf hrxen hrxc rfl hn hsp hclean hframe
  obtain rfl : frame = cleanFrame s.uart.par (wordLength s.uart.wlen) := funext hframe
  have hready : Receiving (wordLength s.uart.wlen) s.uart.par p.toNat (p.toNat + bs.length) s :=
    ⟨hwf, hrxen, hrxc, rfl, rfl, hfree⟩
  have ⟨_, hinstr, _⟩ := hat
  have hall := (receives_length hready (hclean n (by simp)) hat hrecv hover).append fun t ⟨ht, hcur, hmem⟩ =>
    (receives_string ht (fun b hb => hclean b (by simp [hb])) ⟨hcur, hinstr, rfl⟩ hn hsp).mono fun v hv =>
      hv.of_sameMemory hmem
  obtain ⟨t, hruns, ht⟩ := hall.runs
  exact ⟨t, hruns, ht.bytes, ht.terminator, ht.others, ht.cur, ht.rxc⟩

end Sys2Proof.Proofs
end

section
/-!
PROOFS. The statements of the family of 30_encoding.md: command words and commands (R100 to R108), the opcode table (R110,
R116), the reserved encodings (R112 to R114), and the worked encodings (R120).
-/

namespace Sys2Proof.Proofs

open Sys2Proof Sys2Proof.Machine

/-- Settles O1: the decoder reads every command back, so its word is legal when R114 reserves no field value of it. -/
theorem decodeOfEncode : Obligations.DecodeOfEncode := fun i =>
  ⟨decode_encode i, by rw [legalCommand, decode_encode]⟩

/-! ### A word that a format accepts is the word of its opcode and operands (R101 to R108) -/

/-- A bit of a word, as a number. -/
theorem bit_toNat (w : Word) (k : Nat) : (w.getLsbD k).toNat = w.toNat / 2 ^ k % 2 := by
  rw [← BitVec.testBit_toNat, Nat.toNat_testBit]

theorem ifReservedZero_eq_ok {zero : Bool} {i j : Instr} : ifReservedZero zero i = .ok j ↔ zero = true ∧ i = j := by
  unfold ifReservedZero
  split <;> simp_all

/-- A field that is zero, as a number. -/
theorem div_mod_of_field_zero {w : Word} {k n : Nat} (h : w.extractLsb' k n = 0) : w.toNat / 2 ^ k % 2 ^ n = 0 := by
  rw [← field_toNat, h]
  rfl

section Formats
variable {w : Word} {op : Nat} {i : Instr} (hop : (opcodeOf w).toNat = op)
include hop

theorem encode_of_formatZ {j : Instr} (hj : encode j = encodeZ op) (h : formatZ w j = .ok i) : encode i = w := by
  obtain ⟨hres, rfl⟩ := ifReservedZero_eq_ok.mp h
  have hlow := div_mod_of_field_zero (beq_iff_eq.mp hres)
  rw [opcodeOf_toNat] at hop
  apply BitVec.eq_of_toNat_eq
  rw [hj, encodeZ_toNat (by omega)]
  omega

theorem encode_of_formatB {mk : Byte → Instr} (hmk : ∀ b, encode (mk b) = encodeB op b) (h : formatB w mk = .ok i) :
    encode i = w := by
  obtain ⟨hres, rfl⟩ := ifReservedZero_eq_ok.mp h
  have hmid := div_mod_of_field_zero (beq_iff_eq.mp hres)
  rw [opcodeOf_toNat] at hop
  apply BitVec.eq_of_toNat_eq
  rw [hmk, encodeB_toNat (by omega), field_toNat]
  omega

theorem encode_of_formatP {mk : Addr → Instr} (hmk : ∀ p, encode (mk p) = encodeP op p) (h : formatP w mk = .ok i) :
    encode i = w := by
  obtain ⟨hres, rfl⟩ := ifReservedZero_eq_ok.mp h
  have hmid := div_mod_of_field_zero (beq_iff_eq.mp hres)
  rw [opcodeOf_toNat] at hop
  apply BitVec.eq_of_toNat_eq
  rw [hmk, encodeP_toNat (by omega), field_toNat]
  omega

theorem encode_of_formatU {mk : BitVec 32 → Byte → BitVec 2 → BitVec 2 → Bool → Bool → Bool → Instr}
    (hmk : ∀ baud safe par wlen txm rxm rate,
      encode (mk baud safe par wlen txm rxm rate) = encodeU op baud safe par wlen txm rxm rate)
    (h : formatU w mk = .ok i) : encode i = w := by
  obtain ⟨hres, rfl⟩ := ifReservedZero_eq_ok.mp h
  have hmid := div_mod_of_field_zero (beq_iff_eq.mp hres)
  rw [opcodeOf_toNat] at hop
  apply BitVec.eq_of_toNat_eq
  simp only [hmk, encodeU_toNat (show op < 256 by omega), field_toNat, bit_toNat]
  omega

theorem encode_of_formatT {mk : BitVec 2 → BitVec 7 → Instr} (hmk : ∀ tier a, encode (mk tier a) = encodeT op tier a)
    (h : formatT w mk = .ok i) : encode i = w := by
  obtain ⟨hres, rfl⟩ := ifReservedZero_eq_ok.mp h
  obtain ⟨hbit, hhigh⟩ := Bool.and_eq_true_iff.mp hres
  have hbit : w.toNat / 2 ^ 7 % 2 = 0 := by
    rw [← bit_toNat, (Bool.not_eq_true' _).mp hbit, Bool.toNat_false]
  have hhigh := div_mod_of_field_zero (beq_iff_eq.mp hhigh)
  rw [opcodeOf_toNat] at hop
  apply BitVec.eq_of_toNat_eq
  rw [hmk, encodeT_toNat (by omega), field_toNat, field_toNat]
  omega

theorem encode_of_formatC {mk : Bool → Bool → FnRef → Instr}
    (hmk : ∀ dir reg fn, encode (mk dir reg fn) = encodeC op dir reg fn) (h : formatC w mk = .ok i) : encode i = w := by
  obtain ⟨hres, rfl⟩ := ifReservedZero_eq_ok.mp h
  have hmid := div_mod_of_field_zero (beq_iff_eq.mp hres)
  rw [opcodeOf_toNat] at hop
  apply BitVec.eq_of_toNat_eq
  rw [hmk, encodeC_toNat (by omega), field_toNat, bit_toNat, bit_toNat]
  omega

theorem encode_of_formatW {mk : EepromAddr → Byte → Instr} (hmk : ∀ ea data, encode (mk ea data) = encodeW op ea data)
    (h : formatW w mk = .ok i) : encode i = w := by
  obtain ⟨hres, rfl⟩ := ifReservedZero_eq_ok.mp h
  obtain ⟨hlow, hhigh⟩ := Bool.and_eq_true_iff.mp hres
  have hlow := div_mod_of_field_zero (beq_iff_eq.mp hlow)
  have hhigh := div_mod_of_field_zero (beq_iff_eq.mp hhigh)
  rw [opcodeOf_toNat] at hop
  apply BitVec.eq_of_toNat_eq
  rw [hmk, encodeW_toNat (by omega), field_toNat, field_toNat]
  omega

theorem encode_of_formatR {mk : EepromAddr → Addr → Instr} (hmk : ∀ ea out, encode (mk ea out) = encodeR op ea out)
    (h : formatR w mk = .ok i) : encode i = w := by
  obtain ⟨hres, rfl⟩ := ifReservedZero_eq_ok.mp h
  obtain ⟨hlow, hhigh⟩ := Bool.and_eq_true_iff.mp hres
  have hlow := div_mod_of_field_zero (beq_iff_eq.mp hlow)
  have hhigh := div_mod_of_field_zero (beq_iff_eq.mp hhigh)
  rw [opcodeOf_toNat] at hop
  apply BitVec.eq_of_toNat_eq
  rw [hmk, encodeR_toNat (by omega), field_toNat, field_toNat]
  omega

end Formats

/-- Settles O2: the decoder takes the format of the word's opcode, and that format accounts for every bit. -/
theorem encodeOfDecode : Obligations.EncodeOfDecode := by
  intro w i h
  unfold decode at h
  split at h
  case h_1 hop | h_4 hop | h_8 hop | h_9 hop | h_11 hop | h_16 hop | h_18 hop | h_19 hop | h_20 hop | h_21 hop
    | h_22 hop =>
    exact encode_of_formatZ hop rfl h
  case h_2 hop => exact encode_of_formatU hop (fun _ _ _ _ _ _ _ => rfl) h
  case h_3 hop | h_10 hop | h_17 hop => exact encode_of_formatB hop (fun _ => rfl) h
  case h_5 hop | h_6 hop | h_12 hop | h_13 hop => exact encode_of_formatP hop (fun _ => rfl) h
  case h_7 hop | h_14 hop => exact encode_of_formatC hop (fun _ _ _ => rfl) h
  case h_15 hop => exact encode_of_formatT hop (fun _ _ => rfl) h
  case h_23 hop => exact encode_of_formatW hop (fun _ _ => rfl) h
  case h_24 hop => exact encode_of_formatR hop (fun _ _ => rfl) h
  case h_25 => cases h

/-- The decoder and the encoder are inverse to each other. -/
theorem decode_eq_ok_iff {w : Word} {i : Instr} : decode w = .ok i ↔ encode i = w :=
  ⟨encodeOfDecode w i, fun h => h ▸ decode_encode i⟩

/-! ### A row of the opcode table as an opcode and reserved fields (R110, R112) -/

/-- The ones at bits [k+n-1:k]. -/
def fieldMask (k n : Nat) : Word := (BitVec.allOnes n).setWidth 64 <<< k

/-- The mask of the opcode and of the fields, each by its lowest bit and its width. -/
def rowMask : List (Nat × Nat) → Word
  | [] => fieldMask 56 8
  | f :: fs => fieldMask f.1 f.2 ||| rowMask fs

/-- The fields that the format of the command leaves reserved (R101 to R108). -/
def reservedFields : Instr → List (Nat × Nat)
  | .iret | .uartRecv | .spiInitm | .spiInits | .spiRecv | .i2cStart | .i2cRdack | .i2cRdnack | .i2cStop | .i2cStatus
  | .eeInit => [(0, 56)]
  | .uartInit .. => [(47, 9)]
  | .uartSend _ | .spiSend _ | .i2cWrite _ => [(8, 48)]
  | .uartSends _ | .uartRecvs _ | .spiSends _ | .spiRecvs _ => [(16, 40)]
  | .uartSetcb .. | .spiSetcb .. => [(18, 38)]
  | .i2cInit .. => [(7, 1), (10, 46)]
  | .eeWrite .. => [(11, 5), (24, 32)]
  | .eeRead .. => [(11, 5), (32, 24)]

theorem rowOf_mask (i : Instr) : (rowOf i).mask = rowMask (reservedFields i) := by
  cases i <;> rfl

theorem fieldMask_getLsbD {k n i : Nat} (hi : i < 64) : (fieldMask k n).getLsbD i = decide (k ≤ i ∧ i < k + n) := by
  grind [fieldMask]

/-- Two words agree under a mask of one field exactly when that field is the same. -/
theorem and_fieldMask_inj {w v : Word} {k n : Nat} (hkn : k + n ≤ 64) :
    w &&& fieldMask k n = v &&& fieldMask k n ↔ w.extractLsb' k n = v.extractLsb' k n := by
  constructor
  · intro h
    apply BitVec.eq_of_getLsbD_eq
    intro i hi
    have hbit := congrArg (BitVec.getLsbD · (k + i)) h
    simpa [fieldMask_getLsbD (show k + i < 64 by omega), hi] using hbit
  · intro h
    apply BitVec.eq_of_getLsbD_eq
    intro i hi
    have hbit := congrArg (BitVec.getLsbD · (i - k)) h
    grind [fieldMask_getLsbD hi]

/-- Two words agree under two masks exactly when they agree under each. -/
theorem and_or_inj {w v a b : Word} : w &&& (a ||| b) = v &&& (a ||| b) ↔ w &&& a = v &&& a ∧ w &&& b = v &&& b := by
  constructor
  · intro h
    have hleft (x : Word) : x &&& a = x &&& (a ||| b) &&& a := by grind
    have hright (x : Word) : x &&& b = x &&& (a ||| b) &&& b := by grind
    exact ⟨by rw [hleft w, h, ← hleft], by rw [hright w, h, ← hright]⟩
  · rintro ⟨ha, hb⟩
    rw [BitVec.and_or_distrib_left, BitVec.and_or_distrib_left, ha, hb]

/-- Two words agree under a mask exactly when they have the same opcode and the same fields. -/
theorem and_rowMask_inj {w v : Word} {fs : List (Nat × Nat)} (hfs : ∀ f ∈ fs, f.1 + f.2 ≤ 64) :
    w &&& rowMask fs = v &&& rowMask fs ↔
      opcodeOf w = opcodeOf v ∧ ∀ f ∈ fs, w.extractLsb' f.1 f.2 = v.extractLsb' f.1 f.2 := by
  induction fs with
  | nil =>
    rw [rowMask, and_fieldMask_inj (by decide)]
    simp [opcodeOf]
  | cons f fs ih =>
    obtain ⟨hf, hfs⟩ := List.forall_mem_cons.mp hfs
    rw [rowMask, and_or_inj, and_fieldMask_inj hf, ih hfs, List.forall_mem_cons]
    exact and_left_comm

/-- The reserved fields lie below the opcode (R100). -/
theorem reservedFields_low (i : Instr) : ∀ f ∈ reservedFields i, f.1 + f.2 ≤ 56 := by
  cases i <;> simp [reservedFields]

theorem rowOf_mem (i : Instr) : rowOf i ∈ opcodeTable := by
  cases i <;> simp [opcodeTable, rowOf]

theorem exists_rowOf {r : Row} (h : r ∈ opcodeTable) : ∃ i, rowOf i = r := by
  revert r
  simp only [opcodeTable, List.forall_mem_cons, exists_apply_eq_apply, List.not_mem_nil, false_imp_iff, implies_true,
    and_self]

/-- The mask covers the pattern (R110). -/
theorem pattern_and_mask {r : Row} : r ∈ opcodeTable → r.pattern &&& r.mask = r.pattern := by
  revert r
  decide

/-- The pattern is an opcode over zeros (R110). -/
theorem rowOf_pattern_field {i : Instr} : ∀ f ∈ reservedFields i, (rowOf i).pattern.extractLsb' f.1 f.2 = 0 := by
  cases i <;> simp [reservedFields, rowOf]

/-- A word belongs to a row exactly when it has the row's opcode and its reserved fields are zero. -/
theorem and_rowOf_mask_iff {w : Word} (i : Instr) : w &&& (rowOf i).mask = (rowOf i).pattern ↔
    opcodeOf w = opcodeOf (rowOf i).pattern ∧ ∀ f ∈ reservedFields i, w.extractLsb' f.1 f.2 = 0 := by
  conv_lhs => rw [← pattern_and_mask (rowOf_mem i), rowOf_mask]
  rw [and_rowMask_inj fun f hf => (reservedFields_low i f hf).trans (by decide)]
  exact and_congr_right fun _ => forall₂_congr fun f hf => by rw [rowOf_pattern_field f hf]

theorem opcodeOf_ofNat (n : Nat) : (opcodeOf (BitVec.ofNat 64 n)).toNat = n / 2 ^ 56 % 2 ^ 8 := by
  rw [opcodeOf_toNat, BitVec.toNat_ofNat]
  omega

/-- A command's word has the opcode of the command's row (R100, R110). -/
theorem opcodeOf_encode (i : Instr) : opcodeOf (encode i) = opcodeOf (rowOf i).pattern := by
  apply BitVec.eq_of_toNat_eq
  cases i with
  | iret | uartRecv | spiInitm | spiInits | spiRecv | i2cStart | i2cRdack | i2cRdnack | i2cStop | i2cStatus | eeInit =>
    simp [encode, rowOf, opcodeOf_encodeZ, opcodeOf_ofNat]
  | uartInit => simp [encode, rowOf, opcodeOf_encodeU, opcodeOf_ofNat]
  | uartSend | spiSend | i2cWrite => simp [encode, rowOf, opcodeOf_encodeB, opcodeOf_ofNat]
  | uartSends | uartRecvs | spiSends | spiRecvs => simp [encode, rowOf, opcodeOf_encodeP, opcodeOf_ofNat]
  | uartSetcb | spiSetcb => simp [encode, rowOf, opcodeOf_encodeC, opcodeOf_ofNat]
  | i2cInit => simp [encode, rowOf, opcodeOf_encodeT, opcodeOf_ofNat]
  | eeWrite => simp [encode, rowOf, opcodeOf_encodeW, opcodeOf_ofNat]
  | eeRead => simp [encode, rowOf, opcodeOf_encodeR, opcodeOf_ofNat]

/-- A bit by itself is a field. -/
theorem field_one_eq_zero {w : Word} {k : Nat} : w.extractLsb' k 1 = 0#1 ↔ w.getLsbD k = false := by
  rw [← BitVec.toNat_inj, field_toNat, ← Bool.toNat_eq_zero, bit_toNat]
  rfl

/-- With the opcode of a row, the decoder reads the row's format, which accepts the word when its reserved fields are
zero. -/
theorem decodes_in_row_iff {w : Word} {i : Instr} (hop : opcodeOf w = opcodeOf (rowOf i).pattern) :
    (∃ j, decode w = .ok j ∧ rowOf j = rowOf i) ↔ ∀ f ∈ reservedFields i, w.extractLsb' f.1 f.2 = 0 := by
  rw [← BitVec.toNat_inj] at hop
  cases i with
  | iret | uartRecv | spiInitm | spiInits | spiRecv | i2cStart | i2cRdack | i2cRdnack | i2cStop | i2cStatus | eeInit =>
    simp [decode, hop, rowOf, opcodeOf_ofNat, formatZ, ifReservedZero_eq_ok, reservedFields]
  | uartInit =>
    simp [decode, hop, rowOf, opcodeOf_ofNat, formatU, ifReservedZero_eq_ok, reservedFields]
  | uartSend | spiSend | i2cWrite =>
    simp [decode, hop, rowOf, opcodeOf_ofNat, formatB, ifReservedZero_eq_ok, reservedFields]
  | uartSends | uartRecvs | spiSends | spiRecvs =>
    simp [decode, hop, rowOf, opcodeOf_ofNat, formatP, ifReservedZero_eq_ok, reservedFields]
  | uartSetcb | spiSetcb =>
    simp [decode, hop, rowOf, opcodeOf_ofNat, formatC, ifReservedZero_eq_ok, reservedFields]
  | i2cInit =>
    simp [decode, hop, rowOf, opcodeOf_ofNat, formatT, ifReservedZero_eq_ok, reservedFields, field_one_eq_zero, and_assoc]
  | eeWrite =>
    simp [decode, hop, rowOf, opcodeOf_ofNat, formatW, ifReservedZero_eq_ok, reservedFields, and_assoc]
  | eeRead =>
    simp [decode, hop, rowOf, opcodeOf_ofNat, formatR, ifReservedZero_eq_ok, reservedFields, and_assoc]

/-- A word belongs to the row of a command exactly when it decodes to a command of that row. -/
theorem holds_iff_decodes {w : Word} (i : Instr) :
    w &&& (rowOf i).mask = (rowOf i).pattern ↔ ∃ j, decode w = .ok j ∧ rowOf j = rowOf i := by
  rw [and_rowOf_mask_iff]
  constructor
  · rintro ⟨hop, hres⟩
    exact (decodes_in_row_iff hop).mpr hres
  · rintro ⟨j, hdec, hrow⟩
    have hop : opcodeOf w = opcodeOf (rowOf i).pattern := by rw [← decode_eq_ok_iff.mp hdec, opcodeOf_encode, hrow]
    exact ⟨hop, (decodes_in_row_iff hop).mp ⟨j, hdec, hrow⟩⟩

/-- The rows a word belongs to are those of the commands it decodes to (R116). -/
theorem mem_opcodeTable_and_holds_iff {w : Word} {r : Row} :
    (r ∈ opcodeTable ∧ w &&& r.mask = r.pattern) ↔ ∃ i, decode w = .ok i ∧ rowOf i = r := by
  constructor
  · rintro ⟨hmem, hholds⟩
    obtain ⟨i, rfl⟩ := exists_rowOf hmem
    exact (holds_iff_decodes i).mp hholds
  · rintro ⟨i, hdec, rfl⟩
    exact ⟨rowOf_mem i, (holds_iff_decodes i).mpr ⟨i, hdec, rfl⟩⟩

theorem forall_decode_ne_ok_iff {w : Word} :
    (∀ i, decode w ≠ .ok i) ↔ ∀ r ∈ opcodeTable, w &&& r.mask ≠ r.pattern := by
  constructor
  · intro hno r hmem hholds
    obtain ⟨i, hdec, -⟩ := mem_opcodeTable_and_holds_iff.mp ⟨hmem, hholds⟩
    exact hno i hdec
  · intro hno i hdec
    obtain ⟨hmem, hholds⟩ := mem_opcodeTable_and_holds_iff.mpr ⟨i, hdec, rfl⟩
    exact hno _ hmem hholds

/-! ### The verdict "illegal" (R113, R114, R116) -/

theorem legalCommand_eq_none {w : Word} :
    legalCommand w = none ↔ (∀ i, decode w ≠ .ok i) ∨ ∃ i, decode w = .ok i ∧ i.wellFormed = false := by
  unfold legalCommand
  cases decode w <;> simp

/-- The reserved field values, command by command (R114). -/
theorem wellFormed_eq_false {i : Instr} : i.wellFormed = false ↔
    (∃ baud safe par wlen txm rxm rate, i = .uartInit baud safe par wlen txm rxm rate ∧ (par = 3 ∨ baud = 0)) ∨
      (∃ reg fn, i = .spiSetcb true reg fn) ∨ ∃ addr7, i = .i2cInit 3 addr7 := by
  cases i with
  | uartInit => simp [Instr.wellFormed, ← Decidable.or_iff_not_imp_left]
  | spiSetcb dir => cases dir <;> simp [Instr.wellFormed]
  | _ => simp [Instr.wellFormed]

/-- Settles O3: row by row the word's opcode and its reserved fields decide. -/
theorem decoderFindsTheRow : Obligations.DecoderFindsTheRow := by
  refine fun w => ⟨fun r => mem_opcodeTable_and_holds_iff, ?_⟩
  rw [legalCommand_eq_none, forall_decode_ne_ok_iff]
  refine or_congr_right ?_
  constructor
  · rintro ⟨i, hdec, hwf⟩
    obtain ⟨baud, safe, par, wlen, txm, rxm, rate, rfl, hval⟩ | ⟨reg, fn, rfl⟩ | ⟨addr7, rfl⟩ :=
      wellFormed_eq_false.mp hwf
    · exact .inl ⟨baud, safe, par, wlen, txm, rxm, rate, hdec, hval⟩
    · exact .inr (.inl ⟨reg, fn, hdec⟩)
    · exact .inr (.inr ⟨addr7, hdec⟩)
  · rintro (⟨baud, safe, par, wlen, txm, rxm, rate, hdec, hval⟩ | ⟨reg, fn, hdec⟩ | ⟨addr7, hdec⟩)
    · exact ⟨_, hdec, wellFormed_eq_false.mpr (.inl ⟨baud, safe, par, wlen, txm, rxm, rate, rfl, hval⟩)⟩
    · exact ⟨_, hdec, wellFormed_eq_false.mpr (.inr (.inl ⟨reg, fn, rfl⟩))⟩
    · exact ⟨_, hdec, wellFormed_eq_false.mpr (.inr (.inr ⟨addr7, rfl⟩))⟩

/-- The opcodes that R110 assigns lie in five ranges (R113). -/
theorem opcode_ranges {r : Row} : r ∈ opcodeTable → ∀ op, op = (opcodeOf r.pattern).toNat →
    op = 0x01 ∨ (0x10 ≤ op ∧ op ≤ 0x15) ∨ (0x20 ≤ op ∧ op ≤ 0x26) ∨ (0x30 ≤ op ∧ op ≤ 0x36) ∨
      (0x40 ≤ op ∧ op ≤ 0x42) := by
  revert r
  simp only [forall_eq]
  decide

/-- No two rows have one opcode. -/
theorem opcodes_nodup : (opcodeTable.map fun r => opcodeOf r.pattern).Nodup := by
  decide

/-- Every mask covers the opcode. -/
theorem opcodeOf_of_holds {w : Word} {r : Row} (hmem : r ∈ opcodeTable) (h : w &&& r.mask = r.pattern) :
    opcodeOf w = opcodeOf r.pattern := by
  obtain ⟨i, rfl⟩ := exists_rowOf hmem
  exact ((and_rowOf_mask_iff i).mp h).1

theorem legalCommand_eq_none_of_no_row {w : Word} (h : ∀ r ∈ opcodeTable, w &&& r.mask ≠ r.pattern) :
    legalCommand w = none :=
  (decoderFindsTheRow w).2.mpr (.inl h)

/-- Settles O4: a word of a row has the opcode of that row and of no other, and its reserved bits are zero. -/
theorem reservedEncodingsAreIllegal : Obligations.ReservedEncodingsAreIllegal := by
  rintro w op rfl
  refine ⟨fun hreserved => ?_, fun ⟨r, hmem, hop, hbits⟩ => ?_⟩
  · refine legalCommand_eq_none_of_no_row fun r hmem hholds => ?_
    have hrange := opcode_ranges hmem _ rfl
    rw [← opcodeOf_of_holds hmem hholds] at hrange
    omega
  · refine legalCommand_eq_none_of_no_row fun r' hmem' hholds => ?_
    have hsame : opcodeOf r.pattern = opcodeOf r'.pattern :=
      (BitVec.eq_of_toNat_eq hop).trans (opcodeOf_of_holds hmem' hholds)
    obtain rfl := List.inj_on_of_nodup_map opcodes_nodup hmem hmem' hsame
    exact hbits hholds

/-! ### The worked encodings (R120) -/

/-- Text that assembles to a legal command assembles to the command's word, and that word is the command. -/
theorem worked_encoding {text : String} {w : Word} {i : Instr} (htext : assembleLine text = some i) (hw : encode i = w)
    (hwf : i.wellFormed = true) : assemble text = some w ∧ legalCommand w = some i := by
  subst hw
  exact ⟨by rw [assemble, htext], legalCommand_eq_some.mpr ⟨decode_encode i, hwf⟩⟩

/-- Settles O5: the text of each example is read by evaluation, and the word decodes as every command's word does. -/
theorem workedEncodings : Obligations.WorkedEncodings := by
  refine and_assoc.mp ⟨worked_encoding rfl rfl rfl, ?_⟩
  refine and_assoc.mp ⟨worked_encoding rfl rfl rfl, ?_⟩
  refine and_assoc.mp ⟨worked_encoding rfl rfl rfl, ?_⟩
  refine and_assoc.mp ⟨worked_encoding rfl rfl rfl, ?_⟩
  refine and_assoc.mp ⟨worked_encoding rfl rfl rfl, ?_⟩
  refine and_assoc.mp ⟨worked_encoding rfl rfl rfl, ?_⟩
  refine and_assoc.mp ⟨worked_encoding rfl rfl rfl, ?_⟩
  exact and_assoc.mp ⟨worked_encoding rfl rfl rfl, worked_encoding rfl rfl rfl⟩

end Sys2Proof.Proofs
end

section
/-!
PROOFS. The UART commands at their issue and micro-step by micro-step (41_uart.md rules R131 to R148, 42_spi.md rule
R184): what admission answers, one equation per micro-step, and the statements that are read off them.
-/

namespace Sys2Proof.Proofs

open Sys2Proof Sys2Proof.Machine

/-! ### Admission where nothing overlaps, and what the issue answers (R24, R131, R134, R280) -/

section Admission
variable {s : State} {i : Instr}

/-- Of a legal command that overlaps nothing, the unit and its mode decide. -/
theorem admission_of_noOverlap (hwf : i.wellFormed = true) (hover : s.noOverlap i) :
    admission s i = modeRefusal s.ctx s i := by
  have hfree : ¬ (s.ctx = .isr ∧ s.foregroundUses i = true) := fun ⟨hisr, huses⟩ => by
    simp [hover hisr] at huses
  rw [admission, admissionIn, if_neg (by simp [hwf]), if_neg hfree]

theorem admission_illegal (hwf : i.wellFormed = false) : admission s i = some .illegalCommand := by
  rw [admission, admissionIn, if_pos hwf]

/-- With the current context free, HOST's issue of a legal command answers what admission does. -/
theorem issueAnswers_admission (hcur : s.cur = none) (hwf : i.wellFormed = true) :
    issueAnswers s i (admission s i) := by
  have hlegal : legalCommand (encode i) = some i := legalCommand_eq_some.mpr ⟨decode_encode i, hwf⟩
  have hissue : hostIssue s.ctx (encode i) s =
      match admission s i with
      | some r => .refused r
      | none => .next (s.setCur (some (InFlight.issued (encode i)))) := by
    rw [hostIssue, require, if_pos ⟨rfl, hcur⟩, hlegal]
    rfl
  unfold issueAnswers
  cases ha : admission s i <;> simp only [hissue, ha]

theorem issueAnswers_mode (hcur : s.cur = none) (hwf : i.wellFormed = true) (hover : s.noOverlap i) :
    issueAnswers s i (modeRefusal s.ctx s i) :=
  admission_of_noOverlap hwf hover ▸ issueAnswers_admission hcur hwf

theorem uartSendRefusal_eq (c : Ctx) (s : State) : modeRefusal.uartSendRefusal c s =
    if s.uart.inited = false then some .notInitialised
    else if c = .fg ∧ s.uart.txm = true then some .pollingInInterruptMode else none := by
  simp [modeRefusal.uartSendRefusal]

theorem uartRecvRefusal_eq (c : Ctx) (s : State) : modeRefusal.uartRecvRefusal c s =
    if s.uart.inited = false then some .notInitialised
    else if c = .fg ∧ s.uart.rxm = true then some .pollingInInterruptMode else none := by
  simp [modeRefusal.uartRecvRefusal]

end Admission

/-- Settles O8: what the unit and its mode answer to each UART command. -/
theorem uartAdmission : Obligations.UartAdmission := by
  intro s i hcur hwf hover
  have hissue := issueAnswers_mode hcur hwf hover
  refine ⟨?_, ?_, ?_, ?_⟩
  · rintro ⟨baud, safe, par, wlen, txm, rxm, rate, rfl⟩
    exact hissue
  · rintro (⟨b, rfl⟩ | ⟨p, rfl⟩) <;> exact uartSendRefusal_eq s.ctx s ▸ hissue
  · rintro (rfl | ⟨p, rfl⟩) <;> exact uartRecvRefusal_eq s.ctx s ▸ hissue
  · rintro ⟨dir, reg, fn, rfl⟩
    exact hissue

/-! ### What the end of a UART command leaves alone -/

section Ends
variable {s : State}

theorem sameAround_setRet {u : State} (h : SameAround s u) (v : Byte) : SameAround s (u.setRet v) := by
  obtain ⟨hparams, hctx, hlog, hlooped, hturns, hbank⟩ := h
  refine ⟨by simp [hparams], by simp [hctx], by simp [hlog], by simp [hlooped], by simp [hturns], fun c hc => ?_⟩
  rw [State.setRet_bank, hctx, if_neg hc, hbank c hc]

/-- The byte stands in `RET`, and the command completes (R9, R21). -/
theorem SameControl.completesWith {u : State} (h : SameControl s u) (v : Byte) :
    CompletesWith s (u.setRet v).complete v := by
  rw [CompletesWith, State.complete, State.setCur_bank, State.setRet_ctx, h.ctx, if_pos rfl, State.setRet_bank, h.ctx,
    if_pos rfl, h.bank]

/-- A micro-step that works on the UART only, and then ends. -/
theorem outsideUart_setCur (u : Uart) (k : Option InFlight) :
    OutsideUart s (({ s with uart := u } : State).setCur k) :=
  ⟨by simp, sameI2c_setCur ⟨rfl, rfl, rfl⟩ k, sameMemory_of_mem (by simp),
    sameAround_setCur (SameControl.around ⟨rfl⟩) k⟩

theorem outsideUart_setRet_complete (u : Uart) (v : Byte) :
    OutsideUart s (({ s with uart := u } : State).setRet v).complete :=
  ⟨by simp, ⟨by simp, by simp, by simp⟩, sameMemory_of_mem (by simp),
    sameAround_setCur (sameAround_setRet (SameControl.around ⟨rfl⟩) v) none⟩

theorem outsideSpi_setCur (u : Spi) (k : Option InFlight) : OutsideSpi s (({ s with spi := u } : State).setCur k) :=
  ⟨by simp, sameI2c_setCur ⟨rfl, rfl, rfl⟩ k, sameMemory_of_mem (by simp),
    sameAround_setCur (SameControl.around ⟨rfl⟩) k⟩

end Ends

/-! ### `UART_SEND` (R135, R136) -/

section UartSend
variable {s : State} {k : InFlight} {b : Byte}

theorem admission_uartSend (hsend : s.sendAdmitted) (hover : s.noOverlap (.uartSend b)) :
    admission s (.uartSend b) = none := by
  obtain ⟨hinit, hpoll⟩ := hsend
  rw [admission_of_noOverlap rfl hover, modeRefusal, uartSendRefusal_eq]
  simpa [hinit] using hpoll

theorem exec_uartSend (hk : s.cur = some k) (hu : k.uph = 0) (ha : admission s (.uartSend b) = none) :
    exec (.uartSend b) s = holdUntil s.uart.txe s (.next (s.sendStep b).complete) := by
  cases k
  cases hu
  exact microStep_run hk fun _ => ha

end UartSend

/-- Settles O17: the byte is masked by the word length, or the command is held. -/
theorem uartSendLoads : Obligations.UartSendLoads := by
  rintro s k b ⟨hk, -, hu⟩ hsend hover
  have hexec := exec_uartSend hk hu (admission_uartSend hsend hover)
  exact ⟨fun htxe => ⟨_, hexec.trans (holdUntil_open htxe), by rw [State.complete_uart]; rfl,
    SameControl.completes ⟨rfl⟩, outsideUart_setCur _ none⟩, fun htxe => hexec.trans (holdUntil_held htxe)⟩

/-! ### `UART_RECV` (R138, R139) -/

section UartRecv
variable {s : State} {k : InFlight}

theorem admission_uartRecv (hrecv : s.recvAdmitted) (hover : s.noOverlap .uartRecv) : admission s .uartRecv = none := by
  obtain ⟨hinit, hpoll⟩ := hrecv
  rw [admission_of_noOverlap rfl hover, modeRefusal, uartRecvRefusal_eq]
  simpa [hinit] using hpoll

theorem exec_uartRecv (hk : s.cur = some k) (hu : k.uph = 0) (ha : admission s .uartRecv = none) :
    exec .uartRecv s = holdUntil s.uart.rxc s (.next (s.recvStep.setRet s.uart.recvValue).complete) := by
  cases k
  cases hu
  exact microStep_run hk fun _ => ha

end UartRecv

/-- Settles O18: the line error decides on the byte returned and is noted in `subst`. -/
theorem uartRecvReturns : Obligations.UartRecvReturns := by
  rintro s k err ⟨hk, -, hu⟩ hrecv hover herr
  obtain rfl : err = s.uart.lineError := Bool.eq_iff_iff.mpr (herr.trans (uart_lineError_iff s.uart).symm)
  have hexec := exec_uartRecv hk hu (admission_uartRecv hrecv hover)
  exact ⟨fun hrxc => ⟨_, hexec.trans (holdUntil_open hrxc), by simp, SameControl.completesWith ⟨rfl⟩ _,
    outsideUart_setRet_complete _ _⟩, fun hrxc => hexec.trans (holdUntil_held hrxc)⟩

/-! ### `UART_SENDS` (R142) -/

section UartSends
variable {s : State} {k : InFlight} {p : Addr}

theorem exec_uartSends_outOfRange (hk : s.cur = some k) (hu : k.uph = 1) (hsp : 0xFFFF < k.sp) :
    exec (.uartSends p) s = .refused .addressRange := by
  cases k
  cases hu
  exact (microStep_run hk (fun h => nomatch h)).trans (if_neg (Nat.not_le_of_lt hsp))

theorem exec_uartSends_held (hk : s.cur = some k) (hu : k.uph = 2) (htxe : s.uart.txe = false) :
    exec (.uartSends p) s = .next s := by
  cases k
  cases hu
  exact (microStep_run hk (fun h => nomatch h)).trans (holdUntil_held htxe)

end UartSends

/-- Settles O19: the equation of each micro-step, and what its end leaves alone. -/
theorem uartSendsMicroSteps : Obligations.UartSendsMicroSteps := by
  intro s k p
  refine ⟨?_, ?_, ?_, ?_, ?_⟩
  · rintro ⟨hk, -, hu⟩ hsend hover
    exact ⟨_, exec_uartSends_start hk hu (admission_uartSends hsend hover), SameControl.goesOn ⟨rfl⟩ _ 1,
      outsideBank_setCur s _⟩
  · rintro ⟨hk, -, hu⟩ hsp
    exact ⟨_, exec_uartSends_load hk hu hsp, SameControl.goesOn ⟨rfl⟩ _ 2, outsideBank_setCur s _⟩
  · rintro ⟨hk, -, hu⟩ hsp
    exact exec_uartSends_outOfRange hk hu hsp
  · rintro ⟨hk, -, hu⟩ htxe
    have hexec := exec_uartSends_send (p := p) hk hu htxe
    by_cases h0 : k.tmp = 0
    · simp only [if_pos h0] at hexec ⊢
      exact ⟨_, hexec, by rw [State.complete_uart]; rfl, SameControl.completes ⟨rfl⟩, outsideUart_setCur _ none⟩
    · simp only [if_neg h0] at hexec ⊢
      exact ⟨_, hexec, by rw [State.goto_uart]; rfl, SameControl.goesOn ⟨rfl⟩ _ 1, outsideUart_setCur _ _⟩
  · rintro ⟨hk, -, hu⟩ htxe
    exact exec_uartSends_held hk hu htxe

/-! ### `UART_INIT` (R132, R133) -/

section UartInit
variable {s : State} {k : InFlight} {baud : BitVec 32} {safe : Byte} {par wlen : BitVec 2} {txm rxm rate : Bool}

theorem wellFormed_uartInit :
    (Instr.uartInit baud safe par wlen txm rxm rate).wellFormed = true ↔ par ≠ 3 ∧ baud ≠ 0 := by
  simp [Instr.wellFormed]

theorem exec_uartInit (hk : s.cur = some k) (hu : k.uph = 0)
    (ha : admission s (.uartInit baud safe par wlen txm rxm rate) = none) :
    exec (.uartInit baud safe par wlen txm rxm rate) s =
      match baudDivisor s.params.fClk baud.toNat with
      | none => .refused .divisorRange
      | some d =>
        .next ({ s with uart := s.uart.configured baud safe par wlen txm rxm rate d } : State).complete := by
  cases k
  cases hu
  exact microStep_run hk fun _ => ha

/-- The two bytes of a divisor in range (R11(b), R76). -/
theorem divHigh_ofNat {n : Nat} (h : n < 0x10000) : divHigh (BitVec.ofNat 16 n) = BitVec.ofNat 8 (n / 256) := by
  apply BitVec.eq_of_toNat_eq
  simp only [divHigh, BitVec.toNat_ofNat, BitVec.extractLsb'_toNat, Nat.shiftRight_eq_div_pow]
  omega

theorem divLow_ofNat (n : Nat) : divLow (BitVec.ofNat 16 n) = BitVec.ofNat 8 (n % 256) := by
  apply BitVec.eq_of_toNat_eq
  simp only [divLow, BitVec.toNat_ofNat, BitVec.extractLsb'_toNat, Nat.shiftRight_eq_div_pow]
  omega

end UartInit

/-- Settles O15: an admitted init is decided by the divisor; a reserved field and a second init are refused before. -/
theorem uartInitConfigures : Obligations.UartInitConfigures := by
  rintro s k baud safe par wlen txm rxm rate q ⟨hk, -, hu⟩ hover
  refine ⟨fun _ hreserved => ?_, fun hpar hbaud hq => ?_⟩
  · have hwf : (Instr.uartInit baud safe par wlen txm rxm rate).wellFormed = false :=
      Bool.eq_false_iff.mpr fun h => by
        obtain ⟨hpar, hbaud⟩ := wellFormed_uartInit.mp h
        exact hreserved.elim hpar hbaud
    exact microStep_refused hk hu (admission_illegal hwf)
  have hmode := admission_of_noOverlap (wellFormed_uartInit.mpr ⟨hpar, hbaud⟩) hover
  have hquotient : q = roundedQuotient s.params.fClk baud.toNat := hq
  refine ⟨fun hfirst hlo hhi => ?_, fun hfirst hrange => ?_, fun hsecond => ?_⟩
  · have hexec := exec_uartInit hk hu (hmode.trans (by simp [modeRefusal, hfirst]))
    have hd : baudDivisor s.params.fClk baud.toNat = some (BitVec.ofNat 16 (q - 1)) :=
      baudDivisor_eq_some_iff.mpr (by rw [← hquotient, BitVec.toNat_ofNat]; omega)
    rw [hd] at hexec
    refine ⟨_, hexec, ?_, SameControl.completes ⟨rfl⟩, outsideUart_setCur _ none⟩
    rw [State.complete_uart, ← divHigh_ofNat (by omega), ← divLow_ofNat]
    rfl
  · have hexec := exec_uartInit hk hu (hmode.trans (by simp [modeRefusal, hfirst]))
    rwa [baudDivisor_eq_none_iff.mpr (by rw [← hquotient]; omega)] at hexec
  · exact microStep_refused hk hu (hmode.trans (by simp [modeRefusal, hsecond]))

/-! ### The callback commands (R148, R184) -/

section Setcb
variable {s : State} {k : InFlight} {dir reg : Bool} {fn : FnRef}

/-- A callback command is in no transfer class, so that it overlaps nothing (R278). -/
theorem noOverlap_of_transferClasses {i : Instr} (hi : transferClasses i = []) : s.noOverlap i := fun _ =>
  foregroundUses_eq_false.mpr fun _ _ j _ => by simp [sharesClass, hi]

theorem admission_uartSetcb :
    admission s (.uartSetcb dir reg fn) = if s.ctx = .isr then some .setcbInHandler else none :=
  admission_of_noOverlap rfl (noOverlap_of_transferClasses rfl)

theorem admission_spiSetcb :
    admission s (.spiSetcb false reg fn) = if s.ctx = .isr then some .setcbInHandler else none :=
  admission_of_noOverlap rfl (noOverlap_of_transferClasses rfl)

theorem exec_uartSetcb (hk : s.cur = some k) (hu : k.uph = 0) (hctx : s.ctx = .fg) :
    exec (.uartSetcb dir reg fn) s =
      if dir then .next ({ s with uart := { s.uart with cbRx := slotValue reg fn } } : State).complete
      else .next ({ s with uart := { s.uart with cbTx := slotValue reg fn } } : State).complete := by
  cases k
  cases hu
  exact microStep_run hk fun _ => admission_uartSetcb.trans (if_neg (by simp [hctx]))

theorem exec_spiSetcb (hk : s.cur = some k) (hu : k.uph = 0) (hctx : s.ctx = .fg) :
    exec (.spiSetcb false reg fn) s =
      .next ({ s with spi := { s.spi with cb := slotValue reg fn } } : State).complete := by
  cases k
  cases hu
  exact microStep_run hk fun _ => admission_spiSetcb.trans (if_neg (by simp [hctx]))

end Setcb

/-- Settles O21: the slot written is the one of the direction; the mode refuses both commands in a handler. -/
theorem setcbWritesTheSlot : Obligations.SetcbWritesTheSlot := by
  rintro s k dir reg fn v rfl
  refine ⟨?_, ?_, ?_, ?_⟩
  · rintro ⟨hk, -, hu⟩ hctx
    have hexec := exec_uartSetcb (dir := dir) (reg := reg) (fn := fn) hk hu hctx
    cases dir <;>
      exact ⟨_, hexec, by rw [State.complete_uart]; rfl, SameControl.completes ⟨rfl⟩, outsideUart_setCur _ none⟩
  · rintro ⟨hk, -, hu⟩ hctx
    exact ⟨_, exec_spiSetcb hk hu hctx, by rw [State.complete_spi]; rfl, SameControl.completes ⟨rfl⟩,
      outsideSpi_setCur _ none⟩
  · rintro ⟨hk, -, hu⟩ hctx
    exact microStep_refused hk hu (admission_uartSetcb.trans (if_pos hctx))
  · rintro ⟨hk, -, hu⟩ hctx
    exact microStep_refused hk hu (admission_spiSetcb.trans (if_pos hctx))

end Sys2Proof.Proofs
end

section
/-!
PROOFS. The UART frame bit by bit and the framers that take and send it (20_memory.md rule R86, 41_uart.md rules R150 to
R154).
-/

namespace Sys2Proof.Proofs

open Sys2Proof Sys2Proof.Machine

/-! ### The mask of a word length (R11(c)) -/

theorem wmask_toNat {w : Nat} (hw : w ≤ 8) : (wmask w).toNat = 2 ^ w - 1 := by
  have hpow : 2 ^ w ≤ 2 ^ 8 := Nat.pow_le_pow_right (by omega) hw
  rw [wmask, BitVec.toNat_ofNat, Nat.mod_eq_of_lt (by omega)]

theorem and_wmask_toNat (b : Byte) {w : Nat} (hw : w ≤ 8) : (b &&& wmask w).toNat = b.toNat % 2 ^ w := by
  rw [BitVec.toNat_and, wmask_toNat hw, Nat.and_two_pow_sub_one_eq_mod]

/-- A byte fits a word length exactly when the mask leaves it as it is. -/
theorem and_wmask_eq_self_iff {b : Byte} {w : Nat} (hw : w ≤ 8) : b &&& wmask w = b ↔ b.toNat < 2 ^ w := by
  rw [← BitVec.toNat_inj, and_wmask_toNat b hw]
  exact ⟨fun h => h ▸ Nat.mod_lt _ (Nat.two_pow_pos w), Nat.mod_eq_of_lt⟩

theorem getLsbD_of_fits {b : Byte} {w m : Nat} (hb : b.toNat < 2 ^ w) (hm : w ≤ m) : b.getLsbD m = false :=
  Nat.testBit_lt_two_pow (hb.trans_le (Nat.pow_le_pow_right (by omega) hm))

/-! ### The data bits (R153, R154) -/

theorem lsbFirst_succ (d : Byte) (w : Nat) : lsbFirst d (w + 1) = lsbFirst d w ++ [d.getLsbD w] := by
  simp [lsbFirst, List.range_succ]

theorem lsbFirst_length (d : Byte) (w : Nat) : (lsbFirst d w).length = w := by simp [lsbFirst]

theorem lsbFirst_getElem? (d : Byte) {w m : Nat} (hm : m < w) : (lsbFirst d w)[m]? = some (d.getLsbD m) := by
  simp [lsbFirst, hm]

/-- Bit `m` of the byte read from a list of bits is the list's `m`-th, and 0 past its end. -/
theorem byteOfBits_getLsbD (bs : List Bool) {m : Nat} (hm : m < 8) : (byteOfBits bs).getLsbD m = bs[m]?.getD false := by
  induction bs generalizing m with
  | nil => simp [byteOfBits]
  | cons b bs ih =>
    cases m with
    | zero => simp [byteOfBits]
    | succ m =>
      have hbit := ih (Nat.lt_of_succ_lt hm)
      rw [BitVec.getLsbD_eq_getElem (Nat.lt_of_succ_lt hm)] at hbit
      simp [byteOfBits, hm, hbit]

/-- The data bits of a byte that fits the word length give the byte back. -/
theorem byteOfBits_lsbFirst {d : Byte} {w : Nat} (hd : d.toNat < 2 ^ w) : byteOfBits (lsbFirst d w) = d := by
  refine BitVec.eq_of_getLsbD_eq fun m hm => ?_
  rw [byteOfBits_getLsbD _ hm]
  by_cases hmw : m < w
  · rw [lsbFirst_getElem? d hmw, Option.getD_some]
  · rw [List.getElem?_eq_none (by rw [lsbFirst_length]; omega), getLsbD_of_fits hd (by omega), Option.getD_none]

/-- The XOR of the data bits is the parity of the number of ones among them. -/
theorem count_lsbFirst (d : Byte) (w : Nat) : (lsbFirst d w).count true % 2 = (xorbits d w).toNat := by
  induction w with
  | zero => rfl
  | succ w ih =>
    rw [lsbFirst_succ, List.count_append, Nat.add_mod, ih, xorbits]
    cases d.getLsbD w <;> cases xorbits d w <;> rfl

/-! ### The parity bit (R153) -/

theorem parbit_odd (d : Byte) (w : Nat) : parbit 1 d w = some (!xorbits d w) := rfl

theorem parbit_even (d : Byte) (w : Nat) : parbit 2 d w = some (xorbits d w) := rfl

/-- There is a parity bit exactly with parity on. -/
theorem parbit_of_parity {par : BitVec 2} (hpar : par ≠ 0) (d : Byte) (w : Nat) : ∃ p, parbit par d w = some p := by
  rw [parbit, if_neg hpar]
  split
  · exact ⟨_, rfl⟩
  · exact ⟨_, rfl⟩

/-! ### The whole frame (R153, R154) -/

theorem parseFrame_after_rest (w : Nat) (par : BitVec 2) (n : Nat) (bs : List Bool) :
    parseFrame w par (List.replicate n true ++ bs) = parseFrame w par bs := by
  induction n with
  | zero => rfl
  | succ n ih => exact ih

/-- What follows the start bit of a frame parses back. -/
theorem parseBody_frame {w : Nat} (par : BitVec 2) {d : Byte} (hd : d.toNat < 2 ^ w) :
    parseBody w par (lsbFirst d w ++ ((parbit par d w).toList ++ [true])) =
      some (d, (parbit par d w).getD false, true) := by
  have hlen := lsbFirst_length d w
  rw [parseBody, if_neg (by simp [hlen]), List.drop_left' hlen, List.take_left' hlen, byteOfBits_lsbFirst hd]
  by_cases hpar : par = 0
  · subst hpar
    rfl
  · obtain ⟨p, hp⟩ := parbit_of_parity hpar d w
    rw [hp, beq_eq_false_iff_ne.mpr hpar]
    rfl

theorem parbit_toList_length (par : BitVec 2) (d : Byte) (w : Nat) :
    (parbit par d w).toList.length = if par = 0 then 0 else 1 := by
  by_cases hpar : par = 0
  · subst hpar
    rfl
  · obtain ⟨p, hp⟩ := parbit_of_parity hpar d w
    rw [hp, if_neg hpar]
    rfl

theorem frameBits_eq_cons (w : Nat) (par : BitVec 2) (d : Byte) :
    frameBits w par d = false :: (lsbFirst d w ++ ((parbit par d w).toList ++ [true])) := by
  simp [frameBits]

/-- Settles O23: the frame is read off its parts; the parity bit makes the number of ones what its mode says. -/
theorem framesParseBack : Obligations.FramesParseBack := by
  intro w n par d _ hw _ hd
  have hfits : d.toNat < 2 ^ w := (and_wmask_eq_self_iff hw).mp hd
  refine ⟨?_, ?_, ?_, ?_, fun m hm => ?_, ?_, ?_⟩
  · rw [parseFrame_after_rest, frameBits_eq_cons]
    exact parseBody_frame par hfits
  · rw [frameBits_eq_cons, List.length_cons, List.length_append, List.length_append, lsbFirst_length,
      parbit_toList_length, List.length_singleton]
    split <;> rfl
  · rw [frameBits_eq_cons, List.head?_cons]
  · rw [frameBits, List.getLast?_concat]
  · rw [frameBits_eq_cons, List.getElem?_cons_succ, List.getElem?_append_left (by rwa [lsbFirst_length]),
      lsbFirst_getElem? d hm]
  · rintro rfl
    rw [parbit_even, List.count_append, Nat.add_mod, count_lsbFirst]
    cases xorbits d w <;> rfl
  · rintro rfl
    rw [parbit_odd, List.count_append, Nat.add_mod, count_lsbFirst]
    cases xorbits d w <;> rfl

/-! ### The framers (R150 to R152) -/

section Framers
variable {s : State}

/-- UTX, enabled, sends the byte in `txd` as one frame. -/
theorem utxStep_sends (htxen : s.uart.txen = true) (htxe : s.uart.txe = false) :
    utxStep s = { s with uart := { s.uart with
      txline := s.uart.txline ++ [frameOf s.uart s.uart.txd]
      txe := true } } := by
  rw [utxStep, if_pos ⟨htxen, htxe⟩]
  rfl

/-- The parity error of a frame, as R151 has it. -/
theorem parityError_eq (par : BitVec 2) (d : Byte) (w : Nat) (p : Bool) :
    parityError par d w p = (par != 0 && parbit par d w != some p) := by
  by_cases hpar : par = 0
  · subst hpar
    rfl
  · obtain ⟨q, hq⟩ := parbit_of_parity hpar d w
    rw [parityError, hq, bne_iff_ne.mpr hpar, Bool.true_and]
    cases p <;> cases q <;> rfl

/-- URX ignores a frame while the receiver is disabled, and drops one on a full register: it is noted. -/
theorem receiveFrame_noted {d : Byte} {v : RxVerdict} (p stop : Bool) (hd : d &&& wmask (wordLength s.uart.wlen) = d)
    (hverdict : s.uart.verdict = v) (hv : v ≠ .accepted) :
    s.receiveFrame d p stop = { s with uart := { s.uart with
      rxlog := s.uart.rxlog ++ [⟨d, if s.uart.par = 0 then none else some p, stop, v⟩] } } := by
  cases v with
  | accepted => exact absurd rfl hv
  | dropped | ignored => simp only [State.receiveFrame, hverdict, hd]

/-- URX loads a frame into an empty register, with its two error flags. -/
theorem receiveFrame_loads {d : Byte} (p stop : Bool) (hd : d &&& wmask (wordLength s.uart.wlen) = d)
    (hverdict : s.uart.verdict = .accepted) :
    s.receiveFrame d p stop = { s with uart := { s.uart with
      rxd := d
      pe := s.uart.par != 0 && parbit s.uart.par d (wordLength s.uart.wlen) != some p
      fe := !stop
      rxc := true
      rxlog := s.uart.rxlog ++ [⟨d, if s.uart.par = 0 then none else some p, stop, .accepted⟩] } } := by
  simp only [State.receiveFrame, hverdict, hd, framingError, parityError_eq]

theorem verdict_ignored {u : Uart} (hrxen : u.rxen = false) : u.verdict = .ignored := by simp [Uart.verdict, hrxen]

theorem verdict_dropped {u : Uart} (hrxen : u.rxen = true) (hrxc : u.rxc = true) : u.verdict = .dropped := by
  simp [Uart.verdict, hrxen, hrxc]

theorem verdict_accepted {u : Uart} (hrxen : u.rxen = true) (hrxc : u.rxc = false) : u.verdict = .accepted := by
  simp [Uart.verdict, hrxen, hrxc]

end Framers

/-- Settles O22: UTX by its one action, URX by its verdict on the frame. -/
theorem framersTakeTheirSteps : Obligations.FramersTakeTheirSteps := by
  rintro s rest w rfl
  refine ⟨?_, ?_⟩
  · rintro d hturns htxen htxe rfl
    exact (step_cons hturns).trans
      (congrArg Host.Outcome.next (utxStep_sends (s := { s with turns := rest }) htxen htxe))
  · rintro d p stop p' hturns hd rfl
    refine ⟨fun hrxen => ?_, fun hrxen hrxc => ?_, fun hrxen hrxc => ?_⟩ <;>
      refine (step_cons hturns).trans (congrArg Host.Outcome.next ?_)
    · exact receiveFrame_noted (s := { s with turns := rest }) p stop hd (verdict_ignored hrxen) (by simp)
    · exact receiveFrame_noted (s := { s with turns := rest }) p stop hd (verdict_dropped hrxen hrxc) (by simp)
    · exact receiveFrame_loads (s := { s with turns := rest }) p stop hd (verdict_accepted hrxen hrxc)

end Sys2Proof.Proofs
end

section
/-!
PROOFS. The loopback LINE (41_uart.md rule R156): a byte sent comes back to the receiver, on one schedule (log entry 1).
-/

namespace Sys2Proof.Proofs

open Sys2Proof Sys2Proof.Machine

/-- What the schedule of the loopback reads and writes of the state, beside the state `s` it begins in: the UART `u`, the
number `n` of frames offered back, and the command `c` in flight. -/
structure Echoing (s : State) (u : Uart) (n : Nat) (c : Option InFlight) (t : State) : Prop where
  ctx : t.ctx = s.ctx
  suspended : s.ctx = .isr → t.fg = s.fg
  uart : t.uart = u
  looped : t.looped = n
  cur : t.cur = c

section Loopback
variable {s t : State} {u : Uart} {n : Nat} {c : Option InFlight}

/-- The schedule does not change what the handler's commands could overlap. -/
theorem Echoing.noOverlap (h : Echoing s u n c t) {i : Instr} (hover : s.noOverlap i) : t.noOverlap i := fun hisr => by
  have hs : s.ctx = .isr := h.ctx ▸ hisr
  unfold State.foregroundUses
  rw [h.suspended hs]
  exact hover hs

theorem Echoing.recvAdmitted (h : Echoing s u n c t) (hinit : u.inited = true) (hpoll : s.ctx = .fg → u.rxm = false) :
    t.recvAdmitted :=
  ⟨h.uart ▸ hinit, fun hfg => h.uart ▸ hpoll (h.ctx ▸ hfg)⟩

/-- The end of a command, or the issue of one, in the current context. -/
theorem Echoing.setCur (h : Echoing s u n c t) (k : Option InFlight) : Echoing s u n k (t.setCur k) where
  ctx := by simp [h.ctx]
  suspended hisr := by
    rw [State.setCur_fg', if_neg (by simp [h.ctx, hisr]), h.suspended hisr]
  uart := by simp [h.uart]
  looped := by simp [h.looped]
  cur := by simp

/-- `UART_SEND` loads the byte. -/
theorem echoes_send {k : InFlight} {b : Byte} (hat : s.at (.uartSend b) 0 k) (hsend : s.sendAdmitted)
    (hover : s.noOverlap (.uartSend b)) (htxe : s.uart.txe = true) :
    Leads s [.cmd] (Echoing s { s.uart with txd := b &&& s.uart.mask, txe := false } s.looped none) := by
  obtain ⟨hk, hi, hu⟩ := hat
  refine .cmd hk hi fun rest => ⟨_, (exec_uartSend (s := { s with turns := rest }) hk hu
    (admission_uartSend hsend hover)).trans (holdUntil_open htxe), by simp, ?_⟩
  have hloaded : Echoing s _ _ s.cur (({ s with turns := rest } : State).sendStep b) :=
    ⟨rfl, fun _ => rfl, rfl, rfl, rfl⟩
  exact hloaded.setCur none

/-- UTX sends it as one frame. -/
theorem echoes_utx {b : Byte}
    (h : Echoing s { s.uart with txd := b &&& s.uart.mask, txe := false } n none t) (htxen : s.uart.txen = true) :
    Leads t [.utx] (Echoing s (framed s.uart [] b) n none) := by
  obtain ⟨hctx, hfg, huart, hlooped, hcur⟩ := h
  refine .turn fun rest => ?_
  have hutx := utxStep_frames (s := { t with turns := rest }) (huart ▸ htxen) b (huart ▸ rfl) (huart ▸ rfl)
  refine ⟨_, congrArg Host.Outcome.next hutx, rfl, hctx, hfg, ?_, hlooped, hcur⟩
  simp only [huart]
  rfl

/-- LINE offers back the frame on the line, which is a clean one. -/
theorem offered_framed {b : Byte} (huart : t.uart = framed u [] b) (hlooped : t.looped = u.txline.length) :
    t.offered .loopback =
      some (b &&& u.mask, cleanParity t.uart.par (wordLength t.uart.wlen) (b &&& u.mask), true) := by
  have hline : t.uart.txline[t.looped]? = some (frameOf u b) := by
    rw [huart, hlooped]
    exact List.getElem?_concat_length
  simp only [State.offered, hline]
  rw [huart]
  rfl

theorem urxStep_loopback {d : Byte} {p stop : Bool} (h : t.offered .loopback = some (d, p, stop)) :
    urxStep .loopback t = { t.receiveFrame d p stop with looped := t.looped + 1 } := by
  simp only [urxStep, h]

/-- URX takes the frame, and LINE has offered one frame more. -/
theorem echoes_urx {b : Byte} (h : Echoing s (framed s.uart [] b) s.uart.txline.length none t)
    (hrxen : s.uart.rxen = true) (hrxc : s.uart.rxc = false) :
    Leads t [.urx .loopback]
      (Echoing s (accepted (framed s.uart [] b) (b &&& s.uart.mask)) (s.uart.txline.length + 1) none) := by
  obtain ⟨hctx, hfg, huart, hlooped, hcur⟩ := h
  refine .turn fun rest => ?_
  have hoffered := offered_framed (t := { t with turns := rest }) huart hlooped
  have hfits : b &&& s.uart.mask &&& s.uart.mask = b &&& s.uart.mask := by rw [BitVec.and_assoc, BitVec.and_self]
  have hclean := receiveFrame_clean (s := { t with turns := rest }) (b := b &&& s.uart.mask) (huart ▸ hrxen)
    (huart ▸ hrxc) (huart ▸ hfits)
  have hurx := urxStep_loopback hoffered
  rw [hclean] at hurx
  refine ⟨_, congrArg Host.Outcome.next hurx, rfl, hctx, hfg, ?_, ?_, hcur⟩
  · rw [← huart]
  · rw [← hlooped]

/-- HOST issues `UART_RECV`. -/
theorem echoes_issue (h : Echoing s u n none t) (hinit : u.inited = true) (hpoll : s.ctx = .fg → u.rxm = false)
    (hover : s.noOverlap .uartRecv) :
    Leads t [.issue s.ctx (encode .uartRecv)] (Echoing s u n (some (InFlight.issued (encode .uartRecv)))) := by
  refine .turn fun rest => ?_
  have h' : Echoing s u n none { t with turns := rest } := { h with }
  have hissue := issueAnswers_admission (i := .uartRecv) h'.cur rfl
  rw [admission_uartRecv (h'.recvAdmitted hinit hpoll) (h'.noOverlap hover)] at hissue
  exact ⟨_, h.ctx ▸ hissue, by simp, h'.setCur _⟩

/-- `UART_RECV` returns the byte received. -/
theorem exec_uartRecv_returns {k : InFlight} (h : Echoing s u n (some k) t) (hu : k.uph = 0) (hadm : t.recvAdmitted)
    (hover : s.noOverlap .uartRecv) (hrxc : u.rxc = true) :
    ∃ v, exec .uartRecv t = .next v ∧ v.turns = t.turns ∧
      (v.bank s.ctx).ret = u.recvValue ∧ v.uart.subst = u.lineError ∧ v.cur = none := by
  have hexec := exec_uartRecv h.cur hu (admission_uartRecv hadm (h.noOverlap hover))
  have hwith : CompletesWith t _ t.uart.recvValue := SameControl.completesWith (u := t.recvStep) ⟨rfl⟩ _
  refine ⟨_, hexec.trans (holdUntil_open (h.uart ▸ hrxc)), by simp, ?_, by simp [h.uart], by simp⟩
  rw [← h.ctx, hwith, h.uart]

theorem echoes_recv (h : Echoing s u n (some (InFlight.issued (encode .uartRecv))) t) (hinit : u.inited = true)
    (hpoll : s.ctx = .fg → u.rxm = false) (hover : s.noOverlap .uartRecv) (hrxc : u.rxc = true) :
    Leads t [.cmd] fun v => (v.bank s.ctx).ret = u.recvValue ∧ v.uart.subst = u.lineError ∧ v.cur = none := by
  have hinstr : (InFlight.issued (encode .uartRecv)).instr = some .uartRecv := by
    simp [InFlight.instr, InFlight.issued, decode_encode]
  exact .cmd h.cur hinstr fun rest =>
    exec_uartRecv_returns (t := { t with turns := rest }) { h with } rfl (h.recvAdmitted hinit hpoll) hover hrxc

end Loopback

/-- Settles O24: turn by turn the byte is loaded, framed, offered back, received and returned. -/
theorem uartLoopbackReturnsTheByte : Obligations.UartLoopbackReturnsTheByte := by
  rintro s k b w hat hsend ⟨hinit, hpoll⟩ hoverSend hoverRecv htxen hrxen htxe hrxc hlooped rfl
  constructor
  · have hall := (echoes_send hat hsend hoverSend htxe).append fun t ht =>
      (echoes_utx ht htxen).append fun t ht =>
        (echoes_urx (hlooped ▸ ht) hrxen hrxc).append fun t ht =>
          (echoes_issue ht hinit hpoll hoverRecv).append fun t ht => echoes_recv ht hinit hpoll hoverRecv rfl
    obtain ⟨t, hruns, hret, hsubst, hcur⟩ := hall.runs
    exact ⟨t, hruns, hret.trans (accepted_recvValue _ _), hsubst.trans (by simp [accepted, Uart.lineError]), hcur⟩
  · have hwlen := s.uart.wlen.isLt
    have hb := b.isLt
    refine (and_wmask_eq_self_iff (by omega)).trans ⟨Or.inr, ?_⟩
    rintro (hw | hlt)
    · rwa [hw]
    · exact hlt

end Sys2Proof.Proofs
end

section
/-!
PROOFS. The transmitter empties itself (41_uart.md rules R135 and R150, 70_reset_and_hazards.md rule R313): while a byte
waits in `txd`, no turn but UTX's touches the transmitter, and a fair UTX takes its turn.
-/

namespace Sys2Proof.Proofs

open Sys2Proof Sys2Proof.Machine

/-! ### The commands of the other units leave the UART alone -/

/-- The commands of the UART (R131). -/
def usesUart : Instr → Bool
  | .uartInit _ _ _ _ _ _ _ | .uartSend _ | .uartRecv | .uartSends _ | .uartRecvs _ | .uartSetcb _ _ _ => true
  | _ => false

theorem exec_keepsUart {i : Instr} {s : State} {k : InFlight} (hk : s.cur = some k) (hi : usesUart i = false) :
    Ensures (exec i s) fun t => t.uart = s.uart := by
  have hsame (t : State) : OutsideI2c s t → t.uart = s.uart := fun ⟨h, _⟩ => h
  cases i with
  | uartInit | uartSend | uartRecv | uartSends | uartRecvs | uartSetcb => cases hi
  | spiRecvs p => exact (execSpiRecvs_frame p hk).mono fun t ⟨_, h, _⟩ => h
  | eeRead ea out => exact (execEeRead_frame ea out hk).mono fun t ⟨_, h, _⟩ => h
  | iret | i2cStatus | eeInit | spiInitm | spiInits | spiSetcb | i2cInit =>
    refine ensures_microStep fun k _ _ => ?_
    split
    · exact ensures_next (by simp)
    · trivial
  | spiRecv =>
    refine ensures_microStep fun k _ _ => ?_
    split
    · exact ensures_holdUntil rfl (ensures_next (by simp))
    · trivial
  | spiSend =>
    refine ensures_microStep fun k _ _ => ?_
    split
    · exact ensures_next (by simp)
    · exact ensures_holdUntil rfl (ensures_next (by simp))
    · trivial
  | spiSends =>
    refine ensures_microStep fun k _ _ => ?_
    split
    · exact ensures_next (by simp)
    · exact ensures_loadByte fun _ => ensures_next (by simp)
    · exact ensures_next (by simp)
    · refine ensures_holdUntil rfl ?_
      split <;> exact ensures_next (by simp)
    · trivial
  | i2cStart =>
    refine ensures_microStep fun k _ _ => ?_
    split
    · exact ensures_i2cIssue fun _ => ensures_next (by simp)
    · exact ensures_holdUntil rfl (ensures_next (by simp))
    · trivial
  | i2cWrite | i2cRdack | i2cRdnack =>
    refine ensures_microStep fun k _ _ => ?_
    split
    · exact ensures_require fun _ => ensures_i2cIssue fun _ => ensures_next (by simp)
    · exact ensures_holdUntil rfl (ensures_next (by simp))
    · trivial
  | i2cStop =>
    refine ensures_microStep fun k _ _ => ?_
    split
    · exact ensures_require fun _ => ensures_next (by simp)
    · trivial
  | eeWrite =>
    refine ensures_microStep fun k _ _ => ?_
    split
    case h_1 => exact (eepromIssue_outside _ _).mono hsame
    case h_3 | h_5 | h_7 => exact (eepromSend_outside _ _).mono hsame
    case h_2 | h_4 | h_6 | h_8 => exact (eepromWait_outside _ _).mono hsame
    case h_9 => exact (eepromFinish_outside s).mono hsame
    case h_10 => trivial

/-! ### A byte that waits in `txd` -/

/-- The registers of the transmitter: the byte, the flag that it is sent, and the line. -/
def txRegisters (u : Uart) : Byte × Bool × List TxFrame := (u.txd, u.txe, u.txline)

/-- While a byte waits, the sending commands are held, and the others write none of the transmitter's registers (R135,
R142). -/
theorem exec_keepsTx {i : Instr} {s : State} {k : InFlight} (hk : s.cur = some k) (htxe : s.uart.txe = false) :
    Ensures (exec i s) fun t => txRegisters t.uart = txRegisters s.uart := by
  cases hi : usesUart i with
  | false => exact (exec_keepsUart hk hi).mono fun t h => congrArg txRegisters h
  | true =>
    cases i with
    | uartInit =>
      refine ensures_microStep fun k _ _ => ?_
      split
      · split
        · trivial
        · exact ensures_next (by simp [txRegisters, Uart.configured])
      · trivial
    | uartSend =>
      refine ensures_microStep fun k _ _ => ?_
      split
      · rw [holdUntil_held htxe]
        exact ensures_next rfl
      · trivial
    | uartRecv =>
      refine ensures_microStep fun k _ _ => ?_
      split
      · exact ensures_holdUntil rfl (ensures_next (by simp [txRegisters]))
      · trivial
    | uartSends =>
      refine ensures_microStep fun k _ _ => ?_
      split
      · exact ensures_next (by simp)
      · exact ensures_loadByte fun _ => ensures_next (by simp)
      · rw [holdUntil_held htxe]
        exact ensures_next rfl
      · trivial
    | uartRecvs =>
      refine ensures_microStep fun k _ _ => ?_
      split
      · exact ensures_holdUntil rfl (ensures_next (by simp [txRegisters]))
      · split
        · exact ensures_next (by simp)
        · exact ensures_holdUntil rfl (ensures_storeByte fun _ => ensures_next (by simp [txRegisters]))
      · exact ensures_storeByte fun _ => ensures_next (by simp)
      · trivial
    | uartSetcb =>
      refine ensures_microStep fun k _ _ => ?_
      split
      · split <;> exact ensures_next (by simp [txRegisters])
      · trivial
    | _ => cases hi

theorem cmdStep_keepsTx {s : State} (htxe : s.uart.txe = false) :
    Ensures (cmdStep s) fun t => txRegisters t.uart = txRegisters s.uart := by
  unfold cmdStep
  split
  · exact ensures_next rfl
  · next k hk =>
    split
    · exact ensures_refused
    · exact exec_keepsTx hk htxe

/-- URX writes the receiver only (R151). -/
theorem urxStep_keepsTx (o : Offer) (s : State) : txRegisters (urxStep o s).uart = txRegisters s.uart := by
  have hreceive (d : Byte) (p stop : Bool) : txRegisters (s.receiveFrame d p stop).uart = txRegisters s.uart := by
    unfold State.receiveFrame
    cases s.uart.verdict <;> rfl
  unfold urxStep
  split
  · rfl
  · cases o <;> exact hreceive _ _ _

theorem i2bDeviceStep_uart (declines : Bool) (s : State) : (i2bDeviceStep declines s).uart = s.uart := by
  unfold i2bDeviceStep
  split
  · rfl
  · obtain ⟨u, n, hu, -⟩ := i2bStep_bus (s.deviceReply declines).1
      { s with dev := (s.deviceReply declines).2, draws := s.draws + 1 }
    rw [hu]

/-- While a byte waits, no turn but UTX's touches the transmitter (the power-on reset aside). -/
theorem takeTurn_keepsTx {turn : Turn} {s : State} (hutx : turn ≠ .utx) (hpower : turn ≠ .powerOn)
    (htxe : s.uart.txe = false) : Ensures (takeTurn turn s) fun t => txRegisters t.uart = txRegisters s.uart := by
  cases turn with
  | utx => exact absurd rfl hutx
  | powerOn => exact absurd rfl hpower
  | cmd => exact cmdStep_keepsTx htxe
  | urx o => exact ensures_next (urxStep_keepsTx o s)
  | i2bDevice declines => exact ensures_next (congrArg txRegisters (i2bDeviceStep_uart declines s))
  | issue c w =>
    refine ensures_iff.mpr fun t ht => ?_
    obtain ⟨-, -, i, -, -, rfl⟩ := hostIssue_next.mp ht
    rw [State.setBank_uart]
  | hostWrite a v => exact ensures_require fun _ => ensures_next rfl
  | spxMaster p =>
    obtain ⟨u, hu, -⟩ := spxMasterStep_wire p s
    rw [takeTurn, hu]
    exact ensures_next rfl
  | spxSlave m =>
    obtain ⟨u, hu, -⟩ := spxSlaveStep_wire m s
    rw [takeTurn, hu]
    exact ensures_next rfl
  | i2b r =>
    obtain ⟨u, n, hu, -⟩ := i2bStep_bus r s
    rw [takeTurn, hu]
    exact ensures_next rfl
  | irq src honoured =>
    show Ensures (irqStep src honoured s) _
    unfold irqStep
    split
    · refine ensures_iff.mpr fun t ht => ?_
      obtain ⟨-, rfl⟩ | ⟨f, -, -, rfl⟩ := takeInterrupt_next.mp ht <;> rfl
    · exact ensures_next rfl

/-- `v` holds the byte that waits in the initialised transmitter of `u`, its configuration, and its line. -/
structure StillWaits (u v : Uart) : Prop where
  inited : v.inited = true
  txen : v.txen = u.txen
  wlen : v.wlen = u.wlen
  par : v.par = u.par
  txe : v.txe = false
  registers : txRegisters v = txRegisters u

theorem StillWaits.refl {u : Uart} (hinit : u.inited = true) (htxe : u.txe = false) : StillWaits u u :=
  ⟨hinit, rfl, rfl, rfl, htxe, rfl⟩

/-- A turn other than UTX's lets the byte wait. -/
theorem StillWaits.turn {u : Uart} {turn : Turn} {s t : State} (h : StillWaits u s.uart)
    (ht : takeTurn turn s = .next t) (hutx : turn ≠ .utx) (hpower : turn ≠ .powerOn) : StillWaits u t.uart := by
  have hconfig : SameUartConfig s.uart t.uart := by
    cases (ensures_iff.mp (takeTurn_moves hpower s) t ht).uart with
    | command _ _ hmove => exact hmove.config h.inited
    | line hmove => exact hmove.config h.inited
  have htx := ensures_iff.mp (takeTurn_keepsTx hutx hpower h.txe) t ht
  obtain ⟨hinit, -, -, -, hpar, -, -, hwlen, -, -, htxen, -⟩ := hconfig
  have htxe : t.uart.txe = s.uart.txe := congrArg (fun r => r.2.1) htx
  exact ⟨hinit, htxen.trans h.txen, hwlen.trans h.wlen, hpar.trans h.par, htxe.trans h.txe, htx.trans h.registers⟩

section Run
variable {states : Nat → State} {taken : Nat → Turn} {n : Nat}

/-- The byte waits until UTX takes its turn. -/
theorem stillWaits_until (hrun : InfiniteRun states taken) (hpower : ∀ n, taken n ≠ .powerOn)
    (hinit : (states n).uart.inited = true) (htxe : (states n).uart.txe = false) {m : Nat} (hnm : n ≤ m)
    (hutx : ∀ j, n ≤ j → j < m → taken j ≠ .utx) : StillWaits (states n).uart (states m).uart := by
  induction m, hnm using Nat.le_induction with
  | base => exact .refl hinit htxe
  | succ m hnm ih =>
    exact (ih fun j hj hjm => hutx j hj (Nat.lt_succ_of_lt hjm)).turn (hrun m)
      (hutx m hnm (Nat.lt_succ_self m)) (hpower m)

/-- A fair UTX takes its turn: else the byte waits for ever, and UTX is enabled for ever (R313). -/
theorem utx_taken (hrun : InfiniteRun states taken) (hpower : ∀ n, taken n ≠ .powerOn)
    (hfair : WeaklyFair utxEnabled (fun _ t _ => t = .utx) states taken) (hinit : (states n).uart.inited = true)
    (htxen : (states n).uart.txen = true) (htxe : (states n).uart.txe = false) : ∃ m, n ≤ m ∧ taken m = .utx := by
  by_contra hnever
  refine hnever (hfair n fun m hnm => ?_)
  have hwaits := stillWaits_until hrun hpower hinit htxe hnm fun j hj _ hj' => hnever ⟨j, hj, hj'⟩
  exact ⟨hwaits.txen.trans htxen, hwaits.txe⟩

end Run

/-- UTX sends the byte that has waited. -/
theorem StillWaits.sent {u : Uart} {s : State} (h : StillWaits u s.uart) (htxen : u.txen = true) :
    utxStep s = { s with uart := { s.uart with txline := u.txline ++ [frameOf u u.txd], txe := true } } := by
  have htxd : s.uart.txd = u.txd := congrArg Prod.fst h.registers
  have hline : s.uart.txline = u.txline := congrArg (fun r => r.2.2) h.registers
  have hframe : frameOf s.uart u.txd = frameOf u u.txd := by
    simp only [frameOf, Uart.mask, h.wlen, h.par]
  rw [utxStep_sends (h.txen.trans htxen) h.txe, htxd, hline, hframe]

/-- Settles O60: at the first turn that UTX takes, the byte still waits and is sent. -/
theorem transmitterEmptiesItself : Obligations.TransmitterEmptiesItself := by
  rintro states taken hrun hpower hfair n w d hinit htxen htxe rfl rfl
  have htaken := utx_taken hrun hpower hfair hinit htxen htxe
  obtain ⟨hnm, hm⟩ := Nat.find_spec htaken
  have hwaits := stillWaits_until hrun hpower hinit htxe hnm fun j hj hjm hj' => Nat.find_min htaken hjm ⟨hj, hj'⟩
  have hstep := hrun (Nat.find htaken)
  rw [hm, takeTurn, hwaits.sent htxen] at hstep
  have huart := congrArg State.uart (Host.Outcome.next.inj hstep)
  exact ⟨Nat.find htaken, hnm, hm, (congrArg Uart.txe huart).symm, (congrArg Uart.txline huart).symm⟩

end Sys2Proof.Proofs
end

section
/-!
PROOFS. The SPI commands at their issue and micro-step by micro-step (42_spi.md rules R171 to R180), and the shift engine
(R186, R187): what the unit and its mode answer, one equation per micro-step, and the statements that are read off them.
-/

namespace Sys2Proof.Proofs

open Sys2Proof Sys2Proof.Machine

/-! ### Admission (R171) -/

section Admission
variable {s : State} {b : Byte} {p : Addr}

theorem modeRefusal_spiSend (c : Ctx) : modeRefusal c s (.spiSend b) =
    if s.spi.inited = false then some .notInitialised else none := by
  cases hinit : s.spi.inited <;> simp [modeRefusal, hinit]

theorem modeRefusal_spiSends (c : Ctx) : modeRefusal c s (.spiSends p) =
    if s.spi.inited = false then some .notInitialised else none := modeRefusal_spiSend (b := 0) c

theorem modeRefusal_spiRecv (c : Ctx) : modeRefusal c s .spiRecv =
    if s.spi.inited = false then some .notInitialised
    else if c = .fg ∧ s.spi.ie = true then some .pollingInInterruptMode else none := by
  simp [modeRefusal]

theorem modeRefusal_spiRecvs (c : Ctx) : modeRefusal c s (.spiRecvs p) =
    if s.spi.inited = false then some .notInitialised
    else if s.spi.ie = true then some .notAvailableInInterruptMode else none := by
  simp [modeRefusal]

theorem admission_spiInitm (hover : s.noOverlap .spiInitm) :
    admission s .spiInitm = if s.spi.inited = true then some .initTwice else none :=
  admission_of_noOverlap rfl hover

theorem admission_spiInits (hover : s.noOverlap .spiInits) :
    admission s .spiInits = if s.spi.inited = true then some .initTwice else none :=
  admission_of_noOverlap rfl hover

theorem admission_spiSend (hinit : s.spi.inited = true) (hover : s.noOverlap (.spiSend b)) :
    admission s (.spiSend b) = none := by
  rw [admission_of_noOverlap rfl hover, modeRefusal_spiSend, if_neg (by simp [hinit])]

theorem admission_spiSends (hinit : s.spi.inited = true) (hover : s.noOverlap (.spiSends p)) :
    admission s (.spiSends p) = none := by
  rw [admission_of_noOverlap rfl hover, modeRefusal_spiSends, if_neg (by simp [hinit])]

theorem admission_spiRecv (hinit : s.spi.inited = true) (hpoll : s.ctx = .fg → s.spi.ie = false)
    (hover : s.noOverlap .spiRecv) : admission s .spiRecv = none := by
  rw [admission_of_noOverlap rfl hover, modeRefusal_spiRecv, if_neg (by simp [hinit]), if_neg]
  rintro ⟨hfg, hie⟩
  simp [hpoll hfg] at hie

end Admission

/-- Settles O9: what the unit and its mode answer to each SPI command. -/
theorem spiAdmission : Obligations.SpiAdmission := by
  intro s i hcur hwf hover
  have hissue := issueAnswers_mode hcur hwf hover
  refine ⟨?_, ?_, ?_, ?_, ?_⟩
  · rintro (rfl | rfl) <;> exact hissue
  · rintro (⟨b, rfl⟩ | ⟨p, rfl⟩)
    · exact modeRefusal_spiSend (s := s) s.ctx ▸ hissue
    · exact modeRefusal_spiSends (s := s) s.ctx ▸ hissue
  · rintro rfl
    exact modeRefusal_spiRecv (s := s) s.ctx ▸ hissue
  · rintro ⟨p, rfl⟩
    exact modeRefusal_spiRecvs (s := s) s.ctx ▸ hissue
  · rintro ⟨dir, reg, fn, rfl⟩
    exact hissue

/-! ### The two init commands (R172, R173) -/

section SpiInit
variable {s : State} {k : InFlight}

theorem exec_spiInitm (hk : s.cur = some k) (hu : k.uph = 0) (ha : admission s .spiInitm = none) :
    exec .spiInitm s = .next ({ s with spi := (s.spi.configured s.params true).masterLines } : State).complete := by
  cases k
  cases hu
  exact microStep_run hk fun _ => ha

theorem exec_spiInits (hk : s.cur = some k) (hu : k.uph = 0) (ha : admission s .spiInits = none) :
    exec .spiInits s = .next ({ s with spi := (s.spi.configured s.params false).slaveLines } : State).complete := by
  cases k
  cases hu
  exact microStep_run hk fun _ => ha

end SpiInit

/-- Settles O27: each init stores the lines of its role, and a second init is refused at admission. -/
theorem spiInitSetsTheRole : Obligations.SpiInitSetsTheRole := by
  intro s k
  refine ⟨?_, ?_, ?_, ?_⟩
  · rintro ⟨hk, -, hu⟩ hover hfirst
    exact ⟨_, exec_spiInitm hk hu ((admission_spiInitm hover).trans (if_neg (by simp [hfirst]))),
      by rw [State.complete_spi]; rfl, SameControl.completes ⟨rfl⟩, outsideSpi_setCur _ none⟩
  · rintro ⟨hk, -, hu⟩ hover hfirst
    exact ⟨_, exec_spiInits hk hu ((admission_spiInits hover).trans (if_neg (by simp [hfirst]))),
      by rw [State.complete_spi]; rfl, SameControl.completes ⟨rfl⟩, outsideSpi_setCur _ none⟩
  · rintro ⟨hk, -, hu⟩ hover hsecond
    exact microStep_refused hk hu ((admission_spiInitm hover).trans (if_pos hsecond))
  · rintro ⟨hk, -, hu⟩ hover hsecond
    exact microStep_refused hk hu ((admission_spiInits hover).trans (if_pos hsecond))

/-! ### `SPI_SEND` (R175, R176) -/

section SpiSend
variable {s : State} {k : InFlight} {b : Byte}

/-- At u0 the byte is put in the data register. -/
theorem exec_spiSend_put (hk : s.cur = some k) (hu : k.uph = 0) (ha : admission s (.spiSend b) = none) :
    exec (.spiSend b) s = .next ((s.spiPut b).goto k 1) := by
  cases k
  cases hu
  exact microStep_run hk fun _ => ha

/-- At u1 the end of the exchange is waited for. -/
theorem exec_spiSend_wait (hk : s.cur = some k) (hu : k.uph = 1) :
    exec (.spiSend b) s = holdUntil s.spi.tc s (.next s.complete) := by
  cases k
  cases hu
  exact microStep_run hk (fun h => nomatch h)

/-- The put step starts an exchange in a master, and leaves `busy` as it is in a slave (R176). -/
theorem spiPut_spi_of_role (s : State) (b : Byte) : (s.spiPut b).spi =
    if s.spi.mstr then { s.spi with dr := b, tc := false, busy := true } else { s.spi with dr := b, tc := false } := by
  cases hm : s.spi.mstr <;> simp [hm]

end SpiSend

/-- Settles O28: the put step by the role, and the wait for the end of the exchange. -/
theorem spiSendExchanges : Obligations.SpiSendExchanges := by
  intro s k b
  refine ⟨?_, ?_, ?_⟩
  · rintro ⟨hk, -, hu⟩ hover hinit
    exact ⟨_, exec_spiSend_put hk hu (admission_spiSend hinit hover), by rw [State.goto_spi, spiPut_spi_of_role],
      SameControl.goesOn ⟨rfl⟩ k 1, outsideSpi_setCur _ _⟩
  · rintro ⟨hk, -, hu⟩ htc
    exact ⟨_, (exec_spiSend_wait hk hu).trans (holdUntil_open htc), SameControl.completes ⟨rfl⟩, outsideBank_setCur s none⟩
  · rintro ⟨hk, -, hu⟩ htc
    exact (exec_spiSend_wait hk hu).trans (holdUntil_held htc)

/-! ### `SPI_RECV` (R177, R178) -/

section SpiRecv
variable {s : State} {k : InFlight}

theorem exec_spiRecv (hk : s.cur = some k) (hu : k.uph = 0) (ha : admission s .spiRecv = none) :
    exec .spiRecv s = holdUntil s.spi.tc s (.next (s.spiGet.setRet s.spi.dr).complete) := by
  cases k
  cases hu
  exact microStep_run hk fun _ => ha

theorem outsideSpi_setRet_complete (u : Spi) (v : Byte) :
    OutsideSpi s (({ s with spi := u } : State).setRet v).complete :=
  ⟨by simp, ⟨by simp, by simp, by simp⟩, sameMemory_of_mem (by simp),
    sameAround_setCur (sameAround_setRet (SameControl.around ⟨rfl⟩) v) none⟩

end SpiRecv

/-- Settles O29: the data register stands in `RET`, or the command is held. -/
theorem spiRecvReturns : Obligations.SpiRecvReturns := by
  rintro s k ⟨hk, -, hu⟩ hover hinit hpoll
  have hexec := exec_spiRecv hk hu (admission_spiRecv hinit hpoll hover)
  exact ⟨fun htc => ⟨_, hexec.trans (holdUntil_open htc), by simp, SameControl.completesWith ⟨rfl⟩ _,
    outsideSpi_setRet_complete _ _⟩, fun htc => hexec.trans (holdUntil_held htc)⟩

/-! ### `SPI_SENDS` (R180) -/

section SpiSends
variable {s : State} {k : InFlight} {p : Addr}

/-- At u0 the pointer is set. -/
theorem exec_spiSends_start (hk : s.cur = some k) (hu : k.uph = 0) (ha : admission s (.spiSends p) = none) :
    exec (.spiSends p) s = .next (s.goto { k with sp := p.toNat } 1) := by
  cases k
  cases hu
  exact microStep_run hk fun _ => ha

/-- At u1 the next byte is read. -/
theorem exec_spiSends_load (hk : s.cur = some k) (hu : k.uph = 1) :
    exec (.spiSends p) s = loadByte k.sp s fun b => .next (s.goto { k with tmp := b } 2) := by
  cases k
  cases hu
  exact microStep_run hk (fun h => nomatch h)

/-- At u2 the byte is put in the data register. -/
theorem exec_spiSends_put (hk : s.cur = some k) (hu : k.uph = 2) :
    exec (.spiSends p) s = .next ((s.spiPut k.tmp).goto k 3) := by
  cases k
  cases hu
  exact microStep_run hk (fun h => nomatch h)

/-- At u3 the end of the exchange is waited for; that of a zero byte ends the command. -/
theorem exec_spiSends_wait (hk : s.cur = some k) (hu : k.uph = 3) :
    exec (.spiSends p) s = holdUntil s.spi.tc s
      (if k.tmp = 0 then .next s.complete else .next (s.goto { k with sp := k.sp + 1 } 1)) := by
  cases k
  cases hu
  exact microStep_run hk (fun h => nomatch h)

theorem loadByte_inRange {a : Nat} {body : Byte → Result} (ha : a ≤ 0xFFFF) : loadByte a s body = body (s.readMem a) :=
  if_pos ha

theorem loadByte_outOfRange {a : Nat} {body : Byte → Result} (ha : 0xFFFF < a) :
    loadByte a s body = .refused .addressRange :=
  if_neg (Nat.not_le_of_lt ha)

end SpiSends

/-- Settles O30: the equation of each micro-step, and what its end leaves alone. -/
theorem spiSendsMicroSteps : Obligations.SpiSendsMicroSteps := by
  intro s k p
  refine ⟨?_, ?_, ?_, ?_, ?_, ?_⟩
  · rintro ⟨hk, -, hu⟩ hover hinit
    exact ⟨_, exec_spiSends_start hk hu (admission_spiSends hinit hover), SameControl.goesOn ⟨rfl⟩ _ 1,
      outsideBank_setCur s _⟩
  · rintro ⟨hk, -, hu⟩ hsp
    exact ⟨_, (exec_spiSends_load hk hu).trans (loadByte_inRange hsp), SameControl.goesOn ⟨rfl⟩ _ 2,
      outsideBank_setCur s _⟩
  · rintro ⟨hk, -, hu⟩ hsp
    exact (exec_spiSends_load hk hu).trans (loadByte_outOfRange hsp)
  · rintro ⟨hk, -, hu⟩
    exact ⟨_, exec_spiSends_put hk hu, by rw [State.goto_spi, spiPut_spi_of_role], SameControl.goesOn ⟨rfl⟩ k 3,
      outsideSpi_setCur _ _⟩
  · rintro ⟨hk, -, hu⟩ htc
    have hexec := (exec_spiSends_wait (p := p) hk hu).trans (holdUntil_open htc)
    by_cases h0 : k.tmp = 0
    · simp only [if_pos h0] at hexec ⊢
      exact ⟨_, hexec, SameControl.completes ⟨rfl⟩, outsideBank_setCur s none⟩
    · simp only [if_neg h0] at hexec ⊢
      exact ⟨_, hexec, SameControl.goesOn ⟨rfl⟩ _ 1, outsideBank_setCur s _⟩
  · rintro ⟨hk, -, hu⟩ htc
    exact (exec_spiSends_wait hk hu).trans (holdUntil_held htc)

/-! ### The shift engine (R186, R187) -/

section ShiftEngine
variable {s : State}

theorem spxMasterStep_exchanges (p : Peer) (hen : s.spi.en = true) (hmstr : s.spi.mstr = true)
    (hbusy : s.spi.busy = true) : spxMasterStep p s = { s with spi := { s.spi with
      wire := s.spi.wire ++ [⟨.master, s.spi.dr, peerByte s.spi.dr p⟩]
      dr := peerByte s.spi.dr p
      busy := false
      tc := true } } :=
  if_pos ⟨hen, hmstr, hbusy⟩

theorem spxSlaveStep_exchanges (m : Byte) (hen : s.spi.en = true) (hslave : s.spi.mstr = false) :
    spxSlaveStep m s = { s with spi := { s.spi with
      wire := s.spi.wire ++ [⟨.slave, s.spi.dr, m⟩]
      dr := m
      tc := true } } :=
  if_pos ⟨hen, hslave⟩

/-- A master with no exchange under way has none to end (R186). -/
theorem spxMasterStep_idle (p : Peer) (hbusy : s.spi.busy = false) : spxMasterStep p s = s :=
  if_neg (by simp [hbusy])

/-- A master is no slave (R187). -/
theorem spxSlaveStep_master (m : Byte) (hmstr : s.spi.mstr = true) : spxSlaveStep m s = s :=
  if_neg (by simp [hmstr])

end ShiftEngine

/-- Settles O32: SPX's turn in each role. -/
theorem shiftEngineExchanges : Obligations.ShiftEngineExchanges := by
  intro s rest b hen
  refine ⟨fun hturns hmstr hbusy => ?_, fun hturns hslave => ?_⟩ <;>
    refine (step_cons hturns).trans (congrArg Host.Outcome.next ?_)
  · exact spxMasterStep_exchanges (s := { s with turns := rest }) (.byte b) hen hmstr hbusy
  · exact spxSlaveStep_exchanges (s := { s with turns := rest }) b hen hslave

end Sys2Proof.Proofs
end

section
/-!
PROOFS. The loopback PEER (42_spi.md rule R190): a byte that a master sends is the byte it receives, on one schedule (log
entry 1).
-/

namespace Sys2Proof.Proofs

open Sys2Proof Sys2Proof.Machine

/-- What the schedule of the loopback reads and writes of the state, beside the state `s` it begins in: the SPI `u` and the
command `c` in flight. The UART and its count of frames offered back are those of `t` itself. -/
structure Exchanging (s : State) (u : Spi) (c : Option InFlight) (t : State) : Prop where
  around : Echoing s t.uart t.looped c t
  spi : t.spi = u

/-- The unit with the byte put in the data register of a master (R176). -/
def sendingByte (u : Spi) (b : Byte) : Spi := { u with dr := b, tc := false, busy := true }

/-- The unit after an exchange in which PEER answered the byte sent (R186, R190). -/
def exchangedByte (u : Spi) (b : Byte) : Spi :=
  { u with wire := u.wire ++ [⟨.master, b, b⟩], dr := b, busy := false, tc := true }

section Loopback
variable {s t : State} {k : InFlight} {u : Spi} {c : Option InFlight} {b : Byte}

/-- The end of a micro-step, or the issue of a command, in the current context. -/
theorem Exchanging.setCur (h : Exchanging s u c t) (j : Option InFlight) : Exchanging s u j (t.setCur j) where
  around := by simpa using h.around.setCur j
  spi := by simp [h.spi]

/-- The turns to come are none of it. -/
theorem Exchanging.withTurns (h : Exchanging s u c t) (turns : List Turn) : Exchanging s u c { t with turns := turns } :=
  ⟨{ h.around with }, h.spi⟩

theorem Exchanging.admission_recv (h : Exchanging s u c t) (hinit : u.inited = true) (hie : u.ie = false)
    (hover : s.noOverlap .spiRecv) : admission t .spiRecv = none :=
  admission_spiRecv (h.spi ▸ hinit) (fun _ => h.spi ▸ hie) (h.around.noOverlap hover)

/-- `SPI_SEND` puts the byte in the data register and starts the exchange. -/
theorem exchanges_put (hk : s.cur = some k) (hi : k.instr = some (.spiSend b)) (hu : k.uph = 0)
    (hover : s.noOverlap (.spiSend b)) (hinit : s.spi.inited = true) (hmstr : s.spi.mstr = true) :
    Leads s [.cmd] (Exchanging s (sendingByte s.spi b) (some { k with uph := 1 })) := by
  refine .cmd hk hi fun rest => ⟨_, exec_spiSend_put (s := { s with turns := rest }) hk hu
    (admission_spiSend hinit hover), by simp, ?_⟩
  have hput : Exchanging s (sendingByte s.spi b) s.cur (({ s with turns := rest } : State).spiPut b) :=
    ⟨⟨rfl, fun _ => rfl, rfl, rfl, rfl⟩, by rw [spiPut_spi_of_role, if_pos hmstr]; rfl⟩
  exact hput.setCur _

/-- SPX runs the exchange, and PEER answers the byte sent. -/
theorem exchanges_spx (h : Exchanging s (sendingByte u b) c t) (hen : u.en = true) (hmstr : u.mstr = true) :
    Leads t [.spxMaster .loopback] (Exchanging s (exchangedByte u b) c) := by
  refine .turn fun rest => ⟨_, congrArg Host.Outcome.next (spxMasterStep_exchanges (s := { t with turns := rest }) _
    (h.spi ▸ hen) (h.spi ▸ hmstr) (h.spi ▸ rfl)), rfl, { h.around with }, ?_⟩
  simp only [h.spi]
  rfl

/-- The exchange has ended, and `SPI_SEND` with it. -/
theorem exchanges_wait (h : Exchanging s u (some k) t) (hi : k.instr = some (.spiSend b)) (hu : k.uph = 1)
    (htc : u.tc = true) : Leads t [.cmd] (Exchanging s u none) :=
  .cmd h.around.cur hi fun rest => ⟨_, (exec_spiSend_wait (s := { t with turns := rest }) h.around.cur hu).trans
    (holdUntil_open (h.spi ▸ htc)), by simp, (h.withTurns rest).setCur none⟩

/-- HOST issues `SPI_RECV`. -/
theorem exchanges_issue (h : Exchanging s u none t) (hinit : u.inited = true) (hie : u.ie = false)
    (hover : s.noOverlap .spiRecv) :
    Leads t [.issue s.ctx (encode .spiRecv)] (Exchanging s u (some (InFlight.issued (encode .spiRecv)))) := by
  refine .turn fun rest => ?_
  have h' := h.withTurns rest
  have hissue := issueAnswers_admission (i := .spiRecv) h'.around.cur rfl
  rw [h'.admission_recv hinit hie hover] at hissue
  exact ⟨_, h.around.ctx ▸ hissue, by simp, h'.setCur _⟩

/-- `SPI_RECV` returns the byte in the data register. -/
theorem exchanges_recv (h : Exchanging s u (some (InFlight.issued (encode .spiRecv))) t) (hinit : u.inited = true)
    (hie : u.ie = false) (hover : s.noOverlap .spiRecv) (htc : u.tc = true) :
    Leads t [.cmd] fun v => (v.bank s.ctx).ret = u.dr ∧ v.spi = { u with tc := false } ∧ v.cur = none := by
  have hinstr : (InFlight.issued (encode .spiRecv)).instr = some .spiRecv := by
    simp [InFlight.instr, InFlight.issued, decode_encode]
  refine .cmd h.around.cur hinstr fun rest => ?_
  have h' := h.withTurns rest
  have hexec := exec_spiRecv h'.around.cur rfl (h'.admission_recv hinit hie hover)
  have hwith : CompletesWith { t with turns := rest } _ t.spi.dr :=
    SameControl.completesWith (u := ({ t with turns := rest } : State).spiGet) ⟨rfl⟩ _
  refine ⟨_, hexec.trans (holdUntil_open (h'.spi ▸ htc)), by simp, ?_, by simp [h.spi], by simp⟩
  rw [← h'.around.ctx, hwith, h.spi]

end Loopback

/-- Settles O33: turn by turn the byte is put, exchanged for itself, and returned. -/
theorem spiLoopbackReturnsTheByte : Obligations.SpiLoopbackReturnsTheByte := by
  rintro s k b ⟨hk, hi, hu⟩ hoverSend hoverRecv hinit hen hmstr hie
  have hall := (exchanges_put hk hi hu hoverSend hinit hmstr).append fun t ht =>
    (exchanges_spx ht hen hmstr).append fun t ht =>
      (exchanges_wait ht hi rfl rfl).append fun t ht =>
        (exchanges_issue ht hinit hie hoverRecv).append fun t ht => exchanges_recv ht hinit hie hoverRecv rfl
  obtain ⟨t, hruns, hret, hspi, hcur⟩ := hall.runs
  exact ⟨t, hruns, hret, by rw [hspi], by rw [hspi]; rfl, by rw [hspi]; rfl, hcur⟩

end Sys2Proof.Proofs
end

section
/-!
PROOFS. A receive of an idle master hangs (42_spi.md rule R191): no command but one of the SPI's class touches the role and
the flags that it waits on, no such command runs beside it, and SPX has no exchange to run.
-/

namespace Sys2Proof.Proofs

open Sys2Proof Sys2Proof.Machine

/-! ### What a micro-step leaves alone of the schedule and the SPI (R89, R278) -/

/-- The role and the two flags of an exchange (R34, R37). -/
def spiFlags (u : Spi) : Bool × Bool × Bool := (u.mstr, u.tc, u.busy)

/-- The schedule is as before, and the role and the flags of the SPI are where the command is not of its class. -/
structure Apart (i : Instr) (s t : State) : Prop where
  turns : t.turns = s.turns
  spi : .spi ∉ transferClasses i → spiFlags t.spi = spiFlags s.spi

section Apart
variable {i : Instr} {s : State}

theorem Apart.refl (i : Instr) (s : State) : Apart i s s := ⟨rfl, fun _ => rfl⟩

theorem Apart.of_outsideI2c {t : State} (h : OutsideI2c s t) : Apart i s t := by
  obtain ⟨-, hspi, -, -, -, -, -, hturns, -⟩ := h
  exact ⟨hturns, fun _ => congrArg spiFlags hspi⟩

end Apart

/-- Every micro-step, whatever the command: one of the SPI's class writes no schedule, and the others not the SPI either. -/
theorem exec_apart {i : Instr} {s : State} {k : InFlight} (hk : s.cur = some k) : Ensures (exec i s) (Apart i s) := by
  have hheld : Apart i s s := .refl i s
  have hsame (t : State) : OutsideI2c s t → Apart i s t := .of_outsideI2c
  have hends {t : State} (hturns : t.turns = s.turns)
      (hflags : .spi ∉ transferClasses i → spiFlags t.spi = spiFlags s.spi) : Ensures (.next t) (Apart i s) :=
    ensures_next ⟨hturns, hflags⟩
  cases i with
  | spiRecvs p =>
    refine (execSpiRecvs_frame p hk).mono ?_
    rintro t ⟨-, -, -, -, -, -, -, hturns, -⟩
    exact ⟨hturns, by simp [transferClasses]⟩
  | uartRecvs p =>
    refine (execUartRecvs_frame p hk).mono ?_
    rintro t ⟨-, hspi, -, -, -, -, -, hturns, -⟩
    exact ⟨hturns, fun _ => congrArg spiFlags hspi⟩
  | eeRead ea out =>
    refine (execEeRead_frame ea out hk).mono ?_
    rintro t ⟨-, -, hspi, -, -, -, -, hturns, -⟩
    exact ⟨hturns, fun _ => congrArg spiFlags hspi⟩
  | iret | i2cStatus | eeInit | i2cInit | spiInitm | spiInits | spiSetcb =>
    refine ensures_microStep fun k _ _ => ?_
    split
    · exact hends (by simp) (by simp [transferClasses, spiFlags])
    · trivial
  | uartInit =>
    refine ensures_microStep fun k _ _ => ?_
    split
    · split
      · trivial
      · exact hends (by simp) (by simp)
    · trivial
  | uartSetcb =>
    refine ensures_microStep fun k _ _ => ?_
    split
    · split <;> exact hends (by simp) (by simp)
    · trivial
  | uartSend | uartRecv | spiRecv =>
    refine ensures_microStep fun k _ _ => ?_
    split
    · exact ensures_holdUntil hheld (hends (by simp) (by simp [transferClasses]))
    · trivial
  | uartSends =>
    refine ensures_microStep fun k _ _ => ?_
    split
    · exact hends (by simp) (by simp)
    · exact ensures_loadByte fun _ => hends (by simp) (by simp)
    · refine ensures_holdUntil hheld ?_
      split <;> exact hends (by simp) (by simp)
    · trivial
  | spiSend =>
    refine ensures_microStep fun k _ _ => ?_
    split
    · exact hends (by simp) (by simp [transferClasses])
    · exact ensures_holdUntil hheld (hends (by simp) (by simp))
    · trivial
  | spiSends =>
    refine ensures_microStep fun k _ _ => ?_
    split
    · exact hends (by simp) (by simp)
    · exact ensures_loadByte fun _ => hends (by simp) (by simp)
    · exact hends (by simp) (by simp [transferClasses])
    · refine ensures_holdUntil hheld ?_
      split <;> exact hends (by simp) (by simp)
    · trivial
  | i2cStart =>
    refine ensures_microStep fun k _ _ => ?_
    split
    · exact ensures_i2cIssue fun _ => hends (by simp) (by simp)
    · exact ensures_holdUntil hheld (hends (by simp) (by simp))
    · trivial
  | i2cWrite | i2cRdack | i2cRdnack =>
    refine ensures_microStep fun k _ _ => ?_
    split
    · exact ensures_require fun _ => ensures_i2cIssue fun _ => hends (by simp) (by simp)
    · exact ensures_holdUntil hheld (hends (by simp) (by simp))
    · trivial
  | i2cStop =>
    refine ensures_microStep fun k _ _ => ?_
    split
    · exact ensures_require fun _ => hends (by simp) (by simp)
    · trivial
  | eeWrite =>
    refine ensures_microStep fun k _ _ => ?_
    split
    case h_1 => exact (eepromIssue_outside _ _).mono hsame
    case h_3 | h_5 | h_7 => exact (eepromSend_outside _ _).mono hsame
    case h_2 | h_4 | h_6 | h_8 => exact (eepromWait_outside _ _).mono hsame
    case h_9 => exact (eepromFinish_outside s).mono hsame
    case h_10 => trivial

/-! ### A receive in flight (R177, R182) -/

/-- The command in flight is a receive, at a micro-step that takes a byte from the SPI (R177, R182). -/
inductive TakesByte (k : InFlight) : Instr → Prop
  | recv (hu : k.uph = 0) : TakesByte k .spiRecv
  | length {p : Addr} (hu : k.uph = 0) : TakesByte k (.spiRecvs p)
  | payload {p : Addr} (hu : k.uph = 1) (hsn : k.sn ≠ 0) : TakesByte k (.spiRecvs p)

section TakesByte
variable {k : InFlight} {i : Instr} {s : State}

/-- With `tc` = 0 such a micro-step is held. -/
theorem TakesByte.held (h : TakesByte k i) (hk : s.cur = some k) (ha : admission s i = none) (htc : s.spi.tc = false) :
    exec i s = .next s := by
  cases h with
  | recv hu => exact (exec_spiRecv hk hu ha).trans (holdUntil_held htc)
  | length hu => exact (exec_spiRecvs_length hk hu ha).trans (holdUntil_held htc)
  | payload hu hsn => rw [exec_spiRecvs_payload hk hu, if_neg hsn, holdUntil_held htc]

/-- A command that overlaps no receive is not of the SPI's class (R278). -/
theorem TakesByte.not_spi {j : Instr} (h : TakesByte k i) (hj : sharesClass j i = false) : .spi ∉ transferClasses j := by
  intro hspi
  have hshares : sharesClass j i = true := List.any_eq_true.mpr ⟨.spi, hspi, by cases h <;> rfl⟩
  simp [hj] at hshares

end TakesByte

/-! ### Every turn leaves it waiting -/

/-- The receive `i` is in flight in the context `c`, with the record `k`, in a master with `tc` = 0 and no exchange under
way; the invariant and the admission of the commands in flight keep any other command of the SPI out. -/
structure Waits (c : Ctx) (k : InFlight) (i : Instr) (s : State) : Prop where
  inv : Inv s
  admitted : AllAdmitted s
  decoded : decode k.word = .ok i
  takes : TakesByte k i
  flags : spiFlags s.spi = (true, false, false)
  inFlight : (s.bank c).cur = some k

/-- The turns to come, the flags and the record in flight are as before: what a turn has to leave for the receive to go on
waiting. -/
structure Kept (c : Ctx) (s t : State) : Prop where
  turns : t.turns = s.turns
  flags : spiFlags t.spi = spiFlags s.spi
  inFlight : (t.bank c).cur = (s.bank c).cur

section Waits
variable {c : Ctx} {k : InFlight} {i : Instr} {s t : State}

theorem Kept.refl (c : Ctx) (s : State) : Kept c s s := ⟨rfl, rfl, rfl⟩

/-- An update that writes no bank and not the SPI. -/
theorem Kept.of_banks (hturns : t.turns = s.turns) (hspi : t.spi = s.spi) (hfg : t.fg = s.fg) (hisr : t.isr = s.isr) :
    Kept c s t :=
  ⟨hturns, congrArg spiFlags hspi, by
    cases c with
    | fg => exact congrArg Bank.cur hfg
    | isr => exact congrArg Bank.cur hisr⟩

/-- The command of the other context is the handler's, and it shares no class with the suspended receive. -/
theorem Waits.other_not_spi (h : Waits c k i s) (hc : c ≠ s.ctx) {l : InFlight} {j : Instr} (hl : s.cur = some l)
    (hj : decode l.word = .ok j) : .spi ∉ transferClasses j := by
  cases hctx : s.ctx with
  | fg =>
    cases c with
    | fg => exact absurd hctx.symm hc
    | isr => exact absurd h.inFlight (by simp [h.inv.handler_free hctx])
  | isr =>
    cases c with
    | fg =>
      have hcur : (s.bank .isr).cur = some l := by rw [← hctx]; exact hl
      obtain ⟨-, hoverlap, -⟩ := admissionIn_none.mp (h.admitted .isr l j hcur hj)
      exact h.takes.not_spi (foregroundUses_eq_false.mp (hoverlap rfl) k h.inFlight i h.decoded)
    | isr => exact absurd hctx.symm hc

/-- CMD's turn: the receive is held, and a command of the other context is of another class. -/
theorem Waits.cmdStep_kept (h : Waits c k i s) : Ensures (cmdStep s) (Kept c s) := by
  by_cases hc : c = s.ctx
  · subst hc
    have htc : s.spi.tc = false := congrArg (fun f => f.2.1) h.flags
    rw [cmdStep_inFlight h.inFlight h.decoded,
      h.takes.held h.inFlight (h.admitted s.ctx k i h.inFlight h.decoded) htc]
    exact ensures_next (.refl _ s)
  · unfold cmdStep
    split
    · exact ensures_next (.refl c s)
    · next l hl =>
      split
      · exact ensures_refused
      · next j hj =>
        refine ensures_iff.mpr fun t ht => ?_
        have hapart := ensures_iff.mp (exec_apart hl) t ht
        have hmicro := ensures_iff.mp (exec_micro j s) t ht
        exact ⟨hapart.turns, hapart.spi (h.other_not_spi hc hl hj), congrArg Bank.cur (hmicro.others hc)⟩

/-- HOST issues in a context that is free, and SPX has nothing to do; the other agents write no bank and not the SPI. -/
theorem Waits.takeTurn_kept (h : Waits c k i s) {turn : Turn} (hpower : turn ≠ .powerOn) :
    Ensures (takeTurn turn s) (Kept c s) := by
  cases turn with
  | powerOn => exact absurd rfl hpower
  | cmd => exact h.cmdStep_kept
  | issue d w =>
    refine ensures_iff.mpr fun t ht => ?_
    obtain ⟨-, hfree, j, -, -, rfl⟩ := hostIssue_next.mp ht
    have hc : c ≠ d := by
      rintro rfl
      exact absurd h.inFlight (by simp [hfree])
    exact ⟨by simp, by simp, by rw [State.bank_setBank_other s d c _ hc]⟩
  | hostWrite a v => exact ensures_require fun _ => ensures_next (.of_banks rfl rfl rfl rfl)
  | spxMaster p =>
    rw [takeTurn, spxMasterStep_idle p (congrArg (fun f => f.2.2) h.flags)]
    exact ensures_next (.refl c s)
  | spxSlave m =>
    rw [takeTurn, spxSlaveStep_master m (congrArg Prod.fst h.flags)]
    exact ensures_next (.refl c s)
  | utx =>
    obtain ⟨u, hu, -⟩ := utxStep_line s
    rw [takeTurn, hu]
    exact ensures_next (.of_banks rfl rfl rfl rfl)
  | urx o =>
    obtain ⟨u, n, hu, -⟩ := urxStep_line o s
    rw [takeTurn, hu]
    exact ensures_next (.of_banks rfl rfl rfl rfl)
  | i2b r =>
    obtain ⟨u, n, hu, -⟩ := i2bStep_bus r s
    rw [takeTurn, hu]
    exact ensures_next (.of_banks rfl rfl rfl rfl)
  | i2bDevice declines =>
    show Ensures (.next (i2bDeviceStep declines s)) _
    unfold i2bDeviceStep
    split
    · exact ensures_next (.refl c s)
    · obtain ⟨u, n, hu, -⟩ := i2bStep_bus (s.deviceReply declines).1
        { s with dev := (s.deviceReply declines).2, draws := s.draws + 1 }
      rw [hu]
      exact ensures_next (.of_banks rfl rfl rfl rfl)
  | irq src honoured =>
    show Ensures (irqStep src honoured s) _
    unfold irqStep
    split
    · refine ensures_iff.mpr fun t ht => ?_
      obtain ⟨-, rfl⟩ | ⟨f, -, -, rfl⟩ := takeInterrupt_next.mp ht <;> exact .of_banks rfl rfl rfl rfl
    · exact ensures_next (.refl c s)

theorem Waits.withTurns (h : Waits c k i s) (turns : List Turn) : Waits c k i { s with turns := turns } :=
  ⟨inv_withTurns h.inv turns, h.admitted.of_continues (.of_banks rfl rfl rfl rfl), h.decoded, h.takes, h.flags,
    h.inFlight⟩

/-- A step on a schedule without the power-on reset leaves the receive waiting, and the rest of the schedule. -/
theorem Waits.step (h : Waits c k i s) (hpower : Turn.powerOn ∉ s.turns) (ht : step s = .next t) :
    Waits c k i t ∧ Turn.powerOn ∉ t.turns := by
  cases hturns : s.turns with
  | nil =>
    rw [step_nil hturns] at ht
    cases ht
    exact ⟨h, hpower⟩
  | cons turn rest =>
    rw [step_cons hturns] at ht
    obtain ⟨hturn, hrest⟩ : Turn.powerOn ≠ turn ∧ Turn.powerOn ∉ rest := by simpa [hturns] using hpower
    have h' := h.withTurns rest
    obtain ⟨hleft, hflags, hfly⟩ := ensures_iff.mp (h'.takeTurn_kept hturn.symm) t ht
    obtain ⟨-, hadmitted⟩ := yields_iff.mp (takeTurn_yields h'.inv turn)
    have hmoves := ensures_iff.mp (takeTurn_moves hturn.symm _) t ht
    exact ⟨⟨hmoves.inv h'.inv, hadmitted t ht h'.admitted, h.decoded, h.takes, hflags.trans h.flags,
      hfly.trans h.inFlight⟩, hleft ▸ hrest⟩

end Waits

/-- What every step keeps holds at the end of every run. -/
theorem run_keeps {M : Host.Core} {P : M.State → Prop} (hstep : ∀ s t, P s → M.step s = .next t → P t) (n : Nat)
    {s t : M.State} (h : P s) (hrun : M.run n s = .next t) : P t := by
  induction n generalizing s with
  | zero =>
    cases hrun
    exact h
  | succ n ih =>
    rw [Host.Core.run] at hrun
    cases hs : M.step s with
    | next u =>
      rw [hs] at hrun
      exact ih (hstep s u h hs) hrun
    | fault r => simp [hs] at hrun
    | refused r => simp [hs] at hrun

/-- Settles O34: the receive waits in the first state, and every step of the run leaves it waiting. -/
theorem masterReceiveHangs : Obligations.MasterReceiveHangs := by
  intro n s t c k p hinv hadmitted hmstr htc hbusy hk hreceive hpower hrun
  obtain ⟨i, hd, htakes⟩ : ∃ i, decode k.word = .ok i ∧ TakesByte k i := by
    obtain ⟨hd, hu⟩ | ⟨hd, hu | ⟨hu, hsn⟩⟩ := hreceive
    · exact ⟨_, hd, .recv hu⟩
    · exact ⟨_, hd, .length hu⟩
    · exact ⟨_, hd, .payload hu hsn⟩
  have hwaits : Waits c k i s :=
    ⟨hinv, allAdmitted_of_inv hinv hadmitted, hd, htakes, by simp [spiFlags, hmstr, htc, hbusy], hk⟩
  obtain ⟨hend, -⟩ := run_keeps (M := Sys2Proof.core) (P := fun u => Waits c k i u ∧ Turn.powerOn ∉ u.turns)
    (fun u v ⟨hu, hno⟩ huv => hu.step hno huv) n ⟨hwaits, hpower⟩ hrun
  exact hend.inFlight

end Sys2Proof.Proofs
end

section
/-!
PROOFS. Admission and the operations handed to I2B along a run (43_i2c.md rules R205 and R220, 60_exceptions.md rules R278
and R279): a command that waits for its operation is held, no command beside it is of the I2C unit's class, and an operation
is handed over by a command that then waits for it.
-/

namespace Sys2Proof.Proofs

open Sys2Proof Sys2Proof.Machine

/-! ### The commands that do not use the I2C unit (R278) -/

/-- A command that is not of the class of the I2C unit leaves it alone. -/
theorem exec_keepsI2c {i : Instr} {s : State} {k : InFlight} (hk : s.cur = some k) (hi : .i2c ∉ transferClasses i) :
    Ensures (exec i s) fun t => t.i2c = s.i2c := by
  cases i with
  | i2cInit | i2cStart | i2cWrite | i2cRdack | i2cRdnack | i2cStop | i2cStatus | eeInit | eeWrite | eeRead =>
    simp [transferClasses] at hi
  | uartRecvs p => exact (execUartRecvs_frame p hk).mono fun t ⟨_, _, ⟨h, _⟩, _⟩ => h
  | spiRecvs p => exact (execSpiRecvs_frame p hk).mono fun t ⟨_, _, ⟨h, _⟩, _⟩ => h
  | iret | spiInitm | spiInits | spiSetcb =>
    refine ensures_microStep fun k _ _ => ?_
    split
    · exact ensures_next (by simp)
    · trivial
  | uartInit =>
    refine ensures_microStep fun k _ _ => ?_
    split
    · split
      · trivial
      · exact ensures_next (by simp)
    · trivial
  | uartSetcb =>
    refine ensures_microStep fun k _ _ => ?_
    split
    · split <;> exact ensures_next (by simp)
    · trivial
  | uartSend | uartRecv | spiRecv =>
    refine ensures_microStep fun k _ _ => ?_
    split
    · exact ensures_holdUntil rfl (ensures_next (by simp))
    · trivial
  | uartSends =>
    refine ensures_microStep fun k _ _ => ?_
    split
    · exact ensures_next (by simp)
    · exact ensures_loadByte fun _ => ensures_next (by simp)
    · refine ensures_holdUntil rfl ?_
      split <;> exact ensures_next (by simp)
    · trivial
  | spiSend =>
    refine ensures_microStep fun k _ _ => ?_
    split
    · exact ensures_next (by simp)
    · exact ensures_holdUntil rfl (ensures_next (by simp))
    · trivial
  | spiSends =>
    refine ensures_microStep fun k _ _ => ?_
    split
    · exact ensures_next (by simp)
    · exact ensures_loadByte fun _ => ensures_next (by simp)
    · exact ensures_next (by simp)
    · refine ensures_holdUntil rfl ?_
      split <;> exact ensures_next (by simp)
    · trivial

/-! ### A command that waits for its operation (R205) -/

/-- Only a command of the I2C unit's class waits for an operation. -/
theorem i2c_mem_of_awaitedOp {i : Instr} {n : Nat} {x : I2cOp} (h : awaitedOp i n = some x) :
    .i2c ∈ transferClasses i := by
  cases i with
  | i2cStart | i2cWrite | i2cRdack | i2cRdnack | eeWrite | eeRead => simp [transferClasses]
  | _ => cases h

/-- Until the operation has ended the command is held. -/
theorem exec_held_of_awaitedOp {i : Instr} {s : State} {k : InFlight} {x : I2cOp} (hk : s.cur = some k)
    (hx : awaitedOp i k.uph = some x) (hdone : s.i2c.done = false) : exec i s = .next s := by
  cases k
  unfold awaitedOp at hx
  split at hx
  case h_15 => cases hx
  all_goals
    next hu =>
    cases hu
    exact (microStep_run hk (fun h => nomatch h)).trans (holdUntil_held hdone)

/-! ### What makes the pending operation one that is waited for (R205, R220) -/

section Awaited
variable {s t : State} {i : Instr} {c : Ctx} {k : InFlight} {x : I2cOp}

theorem awaited_of_op_none (h : t.i2c.op = none) : Awaited t := fun x hx => by simp [h] at hx

theorem awaited_of_waiter (hop : t.i2c.op = some x) (hadmits : admitsI2c x t.i2c.ph = true)
    (hk : (t.bank c).cur = some k) (hd : decode k.word = .ok i) (hx : awaitedOp i k.uph = some x) : Awaited t := by
  intro y hy
  obtain rfl : x = y := by simpa [hop] using hy
  exact ⟨hadmits, c, k, i, hk, hd, hx⟩

/-- An update that leaves the I2C unit alone, and every command that is in flight. -/
theorem awaited_of_kept (h : Awaited s) (hi2c : t.i2c = s.i2c)
    (hbanks : ∀ c k, (s.bank c).cur = some k → (t.bank c).cur = some k) : Awaited t := by
  intro x hx
  rw [hi2c] at hx ⊢
  obtain ⟨hadmits, c, k, i, hk, hd, hawaits⟩ := h x hx
  exact ⟨hadmits, c, k, i, hbanks c k hk, hd, hawaits⟩

theorem awaited_of_banks (h : Awaited s) (hi2c : t.i2c = s.i2c) (hfg : t.fg = s.fg) (hisr : t.isr = s.isr) :
    Awaited t :=
  awaited_of_kept h hi2c fun c k hk => by
    cases c with
    | fg => exact (congrArg Bank.cur hfg).trans hk
    | isr => exact (congrArg Bank.cur hisr).trans hk

end Awaited

/-! ### The micro-steps that hand an operation over (R205, R244, R246) -/

section Hands
variable {s : State} {i : Instr} {k : InFlight} {n : Nat} {x : I2cOp}

/-- The command goes on to the micro-step at which it waits for the operation that it hands over. -/
theorem i2cIssue_awaited (hd : decode k.word = .ok i) (hx : awaitedOp i n = some x) :
    Ensures (i2cIssue x s fun t => .next (t.goto k n)) Awaited := by
  refine ensures_iff.mpr fun t ht => ?_
  obtain ⟨-, hadmits, hnext⟩ := i2cIssue_next.mp ht
  cases hnext
  exact awaited_of_waiter (by simp) (by simpa using hadmits) (State.cur_goto _ k n) hd hx

theorem checkStatus_i2c (code : Byte) : Ensures (checkStatus code s k n) fun t => t.i2c = s.i2c :=
  ensures_checkStatus (State.goto_i2c s k n) (by simp)

theorem eepromWait_i2c (code : Byte) : Ensures (eepromWait code s k n) fun t => t.i2c = s.i2c :=
  ensures_holdUntil rfl (checkStatus_i2c code)

/-- With no operation pending, the one pending after a micro-step is the one that it has just handed over. -/
theorem exec_awaited (hk : s.cur = some k) (hd : decode k.word = .ok i) (hop : s.i2c.op = none) :
    Ensures (exec i s) Awaited := by
  have hkept (t : State) (h : t.i2c = s.i2c) : Awaited t := awaited_of_op_none (h ▸ hop)
  have hends {t : State} (h : t.i2c.op = none) : Ensures (.next t) Awaited := ensures_next (awaited_of_op_none h)
  have hheld : Awaited s := awaited_of_op_none hop
  by_cases hi : .i2c ∈ transferClasses i
  · cases i with
    | iret | uartInit | uartSend | uartRecv | uartSends | uartRecvs | uartSetcb | spiInitm | spiInits | spiSend | spiRecv
    | spiSends | spiRecvs | spiSetcb => simp [transferClasses] at hi
    | i2cInit | eeInit =>
      refine ensures_microStep fun _ _ _ => ?_
      split
      · exact hends (by rw [State.complete_i2c]; rfl)
      · trivial
    | i2cStatus =>
      refine ensures_microStep fun _ _ _ => ?_
      split
      · exact hends (by simpa using hop)
      · trivial
    | i2cStop =>
      refine ensures_microStep fun _ _ _ => ?_
      split
      · exact ensures_require fun _ => hends (by rw [State.complete_i2c]; exact hop)
      · trivial
    | i2cStart =>
      refine ensures_microStep fun l hl _ => ?_
      obtain rfl : k = l := by simpa [hk] using hl
      split
      · exact i2cIssue_awaited hd rfl
      · exact ensures_holdUntil hheld (hends (by simpa using hop))
      · trivial
    | i2cWrite | i2cRdack | i2cRdnack =>
      refine ensures_microStep fun l hl _ => ?_
      obtain rfl : k = l := by simpa [hk] using hl
      split
      · exact ensures_require fun _ => i2cIssue_awaited hd rfl
      · exact ensures_holdUntil hheld (hends (by simpa using hop))
      · trivial
    | eeWrite =>
      refine ensures_microStep fun l hl _ => ?_
      obtain rfl : k = l := by simpa [hk] using hl
      split
      case h_1 | h_3 | h_5 | h_7 => exact i2cIssue_awaited hd rfl
      case h_2 | h_4 | h_6 | h_8 => exact (eepromWait_i2c _).mono hkept
      case h_9 => exact hends (by rw [State.complete_i2c, State.setRes_i2c]; exact hop)
      case h_10 => trivial
    | eeRead ea out =>
      refine ensures_microStep fun l hl _ => ?_
      obtain rfl : k = l := by simpa [hk] using hl
      split
      case h_1 | h_3 | h_5 | h_7 | h_9 | h_11 => exact i2cIssue_awaited hd rfl
      case h_2 | h_4 | h_6 | h_8 | h_10 => exact (eepromWait_i2c _).mono hkept
      case h_12 =>
        exact ensures_holdUntil hheld (ensures_storeByte fun _ => (checkStatus_i2c _).mono hkept)
      case h_13 => exact hends (by rw [State.complete_i2c, State.setRes_i2c]; exact hop)
      case h_14 => trivial
  · exact (exec_keepsI2c hk hi).mono hkept

end Hands

/-! ### Every turn keeps the pending operation waited for (R6) -/

section Turns
variable {s t : State}

/-- The command in flight in the current context shares no class with one in flight in the other: that is the suspended
foreground's (R278). -/
theorem sharesClass_of_other {c : Ctx} {k l : InFlight} {i j : Instr} (hinv : Inv s) (ha : AllAdmitted s) (hc : c ≠ s.ctx)
    (hk : (s.bank c).cur = some k) (hi : decode k.word = .ok i) (hl : s.cur = some l) (hj : decode l.word = .ok j) :
    sharesClass j i = false := by
  cases hctx : s.ctx with
  | fg =>
    cases c with
    | fg => exact absurd hctx.symm hc
    | isr => exact absurd hk (by simp [hinv.handler_free hctx])
  | isr =>
    cases c with
    | fg =>
      have hcur : (s.bank .isr).cur = some l := by rw [← hctx]; exact hl
      obtain ⟨-, hoverlap, -⟩ := admissionIn_none.mp (ha .isr l j hcur hj)
      exact foregroundUses_eq_false.mp (hoverlap rfl) k hk i hi
    | isr => exact absurd hctx.symm hc

/-- A command that shares no class with one that waits for an operation is not of the I2C unit's class. -/
theorem not_i2c_of_sharesClass {i j : Instr} {n : Nat} {x : I2cOp} (hx : awaitedOp i n = some x)
    (hj : sharesClass j i = false) : .i2c ∉ transferClasses j := by
  intro hmem
  have hshares : sharesClass j i = true :=
    List.any_eq_true.mpr ⟨.i2c, hmem, List.contains_iff_mem.mpr (i2c_mem_of_awaitedOp hx)⟩
  simp [hj] at hshares

/-- CMD's turn: the command that waits is held, one beside it is not of the I2C unit's class, and with nothing pending an
operation is handed over or not. -/
theorem cmdStep_awaited (hinv : Inv s) (ha : AllAdmitted s) (h : Awaited s) : Ensures (cmdStep s) Awaited := by
  unfold cmdStep
  split
  · exact ensures_next h
  · next l hl =>
    split
    · exact ensures_refused
    · next j hj =>
      cases hop : s.i2c.op with
      | none => exact exec_awaited hl hj hop
      | some x =>
        obtain ⟨hadmits, c, k, i, hk, hi, hx⟩ := h x hop
        by_cases hc : c = s.ctx
        · subst hc
          obtain rfl : l = k := Option.some.inj (hl.symm.trans hk)
          obtain rfl : j = i := Except.ok.inj (hj.symm.trans hi)
          rw [exec_held_of_awaitedOp hl hx (hinv.i2c.pending_not_done (by simp [hop]))]
          exact ensures_next h
        · have hshares : sharesClass j i = false := sharesClass_of_other hinv ha hc hk hi hl hj
          refine ensures_iff.mpr fun t ht => ?_
          have hi2c := ensures_iff.mp (exec_keepsI2c hl (not_i2c_of_sharesClass hx hshares)) t ht
          have hbank := (ensures_iff.mp (exec_micro j s) t ht).others hc
          exact awaited_of_waiter (hi2c ▸ hop) (hi2c ▸ hadmits) (hbank ▸ hk) hi hx

/-- I2B leaves the pending operation as it is, or ends it. -/
theorem BusMove.op {u v : I2c} (h : BusMove u v) : v = u ∨ v.op = none := by
  cases h with
  | kept => exact .inl rfl
  | started | advanced | failed => exact .inr rfl

theorem i2bStep_awaited (r : BusReply) (h : Awaited s) : Awaited (i2bStep r s) := by
  obtain ⟨u, n, hu, hbus⟩ := i2bStep_bus r s
  rw [hu]
  obtain rfl | hop := hbus.op
  · exact awaited_of_banks h rfl rfl rfl
  · exact awaited_of_op_none hop

/-- HOST's issue puts a command in flight where there was none (R24). -/
theorem hostIssue_awaited {c : Ctx} {w : Word} (h : Awaited s) : Ensures (hostIssue c w s) Awaited := by
  refine ensures_iff.mpr fun t ht => ?_
  obtain ⟨-, hfree, i, -, -, rfl⟩ := hostIssue_next.mp ht
  refine awaited_of_kept h (by simp) fun d k hk => ?_
  have hd : d ≠ c := by
    rintro rfl
    simp [hfree] at hk
  rw [State.bank_setBank_other s c d _ hd, hk]

/-- Turn by turn: CMD hands operations over, I2B ends them, and the other agents leave them and their commands alone. -/
theorem takeTurn_awaited (hinv : Inv s) (ha : AllAdmitted s) (h : Awaited s) (turn : Turn) :
    Ensures (takeTurn turn s) Awaited := by
  cases turn with
  | cmd => exact cmdStep_awaited hinv ha h
  | i2b r => exact i2bStep_awaited r h
  | i2bDevice declines =>
    show Awaited (i2bDeviceStep declines s)
    unfold i2bDeviceStep
    split
    · exact h
    · exact i2bStep_awaited _ (awaited_of_banks h rfl rfl rfl)
  | issue c w => exact hostIssue_awaited h
  | hostWrite a v => exact ensures_require fun _ => ensures_next (awaited_of_banks h rfl rfl rfl)
  | utx =>
    obtain ⟨u, hu, -⟩ := utxStep_line s
    rw [takeTurn, hu]
    exact ensures_next (awaited_of_banks h rfl rfl rfl)
  | urx o =>
    obtain ⟨u, n, hu, -⟩ := urxStep_line o s
    rw [takeTurn, hu]
    exact ensures_next (awaited_of_banks h rfl rfl rfl)
  | spxMaster p =>
    obtain ⟨u, hu, -⟩ := spxMasterStep_wire p s
    rw [takeTurn, hu]
    exact ensures_next (awaited_of_banks h rfl rfl rfl)
  | spxSlave m =>
    obtain ⟨u, hu, -⟩ := spxSlaveStep_wire m s
    rw [takeTurn, hu]
    exact ensures_next (awaited_of_banks h rfl rfl rfl)
  | irq src honoured =>
    show Ensures (irqStep src honoured s) Awaited
    unfold irqStep
    split
    · refine ensures_iff.mpr fun t ht => ?_
      obtain ⟨-, rfl⟩ | ⟨f, -, -, rfl⟩ := takeInterrupt_next.mp ht <;> exact awaited_of_banks h rfl rfl rfl
    · exact h
  | powerOn => exact ensures_next (awaited_of_op_none rfl)

theorem step_awaited (hinv : Inv s) (ha : AllAdmitted s) (h : Awaited s) (ht : step s = .next t) : Awaited t := by
  cases hturns : s.turns with
  | nil =>
    rw [step_nil hturns] at ht
    cases ht
    exact h
  | cons turn rest =>
    rw [step_cons hturns] at ht
    exact ensures_iff.mp (takeTurn_awaited (inv_withTurns hinv rest) (ha.of_continues (.of_banks rfl rfl rfl rfl))
      (awaited_of_banks h rfl rfl rfl) turn) t ht

/-- Admission in every context, without what is said of the command's word. -/
theorem admitted_of_allAdmitted (h : AllAdmitted s) : Admitted s := by
  refine ⟨fun c k i hk hd => ?_, fun k i hk hd => ?_⟩
  · obtain ⟨-, -, hmode⟩ := admissionIn_none.mp (h c k i hk hd)
    exact hmode
  · obtain ⟨-, hoverlap, -⟩ := admissionIn_none.mp (h .isr k i hk hd)
    exact hoverlap rfl

end Turns

/-- Settles O54: the admission of every command in flight is kept by every step, and with it the wait for an operation. -/
theorem admissionAndOperationsAreKept : Obligations.AdmissionAndOperationsAreKept := by
  intro s t hinv hadmitted ht
  have ha : AllAdmitted s := allAdmitted_of_inv hinv hadmitted
  obtain ⟨-, hkept⟩ := yields_iff.mp (step_yields hinv)
  exact ⟨admitted_of_allAdmitted (hkept t ht ha), fun h => step_awaited hinv ha h ht⟩

end Sys2Proof.Proofs
end

section
/-!
PROOFS. The I2C commands micro-step by micro-step (43_i2c.md rules R202 to R218, 44_eeprom.md rule R242): the init, the four
primitives with their admission by phase, the stop and the status.
-/

namespace Sys2Proof.Proofs

open Sys2Proof Sys2Proof.Machine

/-! ### Admission, and the ends of a micro-step (R9, R278) -/

section Shared
variable {s : State} {i : Instr}

/-- No mode of a unit refuses a command of the I2C unit's class: what refuses it is its own micro-step. -/
theorem modeRefusal_i2c (c : Ctx) (s : State) (hi : .i2c ∈ transferClasses i) : modeRefusal c s i = none := by
  cases i with
  | i2cInit | i2cStart | i2cWrite | i2cRdack | i2cRdnack | i2cStop | i2cStatus | eeInit | eeWrite | eeRead => rfl
  | _ => simp [transferClasses] at hi

theorem admission_i2c (hwf : i.wellFormed = true) (hi : .i2c ∈ transferClasses i) (hover : s.noOverlap i) :
    admission s i = none :=
  (admission_of_noOverlap hwf hover).trans (modeRefusal_i2c s.ctx s hi)

theorem outsideBank_setRet_complete (s : State) (v : Byte) : OutsideBank s (s.setRet v).complete :=
  ⟨by simp, by simp, ⟨by simp, by simp, by simp⟩, sameMemory_of_mem (by simp),
    sameAround_setCur (sameAround_setRet (SameControl.around ⟨rfl⟩) v) none⟩

/-- A micro-step that works on the I2C unit, the device and the count of draws only, and then completes its command. -/
theorem outsideI2c_complete (u : I2c) (d : Device) (n : Nat) :
    OutsideI2c s ({ s with i2c := u, dev := d, draws := n } : State).complete :=
  ⟨by simp, by simp, sameMemory_of_mem (by simp), sameAround_setCur (SameControl.around ⟨rfl⟩) none⟩

end Shared

/-! ### `I2C_INIT` and `EE_INIT` (R202, R203, R242) -/

section Init
variable {s : State} {k : InFlight} {tier : BitVec 2} {addr7 : BitVec 7}

theorem exec_i2cInit (hk : s.cur = some k) (hu : k.uph = 0) (ha : admission s (.i2cInit tier addr7) = none) :
    exec (.i2cInit tier addr7) s = .next (s.i2cSetup tier addr7).complete := by
  cases k
  cases hu
  exact microStep_run hk fun _ => ha

theorem exec_eeInit (hk : s.cur = some k) (hu : k.uph = 0) (ha : admission s .eeInit = none) :
    exec .eeInit s = .next (s.i2cSetup 1 s.params.eeLocalAddr).complete := by
  cases k
  cases hu
  exact microStep_run hk fun _ => ha

/-- The tier 3 is reserved (R114, R203). -/
theorem wellFormed_i2cInit : (Instr.i2cInit tier addr7).wellFormed = true ↔ tier ≠ 3 := by
  simp [Instr.wellFormed]

/-- The unit after an init, by what the tier stands for. -/
theorem i2cSetup_i2c {brr : Byte} {ps : BitVec 2} (htier : i2cTier tier = (brr, ps)) :
    (s.i2cSetup tier addr7).i2c = { s.i2c with
      en := true, brr := brr, ps := ps, addr := addr7, gce := true, ph := .idle, owned := false, op := none,
      done := false, sr := BitVec.ofNat 8 (8 * (Config.drawCode s.draws).toNat + ps.toNat),
      bus := s.i2c.bus ++ (if s.i2c.owned then [.reinit] else []) } := by
  cases howned : s.i2c.owned <;> simp [State.i2cSetup, htier, statusAfterInit, howned]

end Init

/-- Settles O35: both commands do the set-up of the unit, with their own tier and address. -/
theorem i2cInitConfigures : Obligations.I2cInitConfigures := by
  rintro s k i tier addr7 brr ps ⟨hk, -, hu⟩
  refine ⟨fun hover hi htier => ?_, ?_⟩
  · obtain ⟨hlegal, htier⟩ : tier ≠ 3 ∧ i2cTier tier = (brr, ps) := by
      obtain ⟨rfl, rfl, rfl⟩ | ⟨rfl, rfl, rfl⟩ | ⟨rfl, rfl, rfl⟩ := htier <;> exact ⟨by decide, rfl⟩
    have hexec : exec i s = .next (s.i2cSetup tier addr7).complete := by
      obtain rfl | ⟨rfl, rfl, rfl⟩ := hi
      · exact exec_i2cInit hk hu (admission_i2c (wellFormed_i2cInit.mpr hlegal) (by simp [transferClasses]) hover)
      · exact exec_eeInit hk hu (admission_i2c rfl (by simp [transferClasses]) hover)
    exact ⟨_, Config.drawCode s.draws, hexec, by rw [State.complete_i2c, i2cSetup_i2c htier],
      by rw [State.complete_dev]; rfl, SameControl.completes ⟨rfl⟩, outsideI2c_complete _ _ _⟩
  · rintro rfl
    have hillegal : admission s (.i2cInit 3 addr7) = some .illegalCommand := admission_illegal rfl
    exact microStep_refused hk hu hillegal

/-! ### The four primitives (R205, R206, R208, R210, R212, R213) -/

/-- The phases in which a byte may be read and acknowledged (R206). -/
theorem admitsI2c_readAck_iff {ph : I2cPhase} : admitsI2c .readAck ph = true ↔ ph = .mr := by
  cases ph <;> simp [admitsI2c]

/-- The primitive `i` hands the operation `x` to I2B with the byte `d` in the data register. -/
inductive Primitive (s : State) : Instr → I2cOp → Byte → Prop
  | start : Primitive s .i2cStart .start s.i2c.dr
  | write (b : Byte) : Primitive s (.i2cWrite b) .write b
  | readAck : Primitive s .i2cRdack .readAck s.i2c.dr
  | readNack : Primitive s .i2cRdnack .readNack s.i2c.dr

namespace Primitive
variable {s : State} {k : InFlight} {i : Instr} {x : I2cOp} {d : Byte}

theorem admission (h : Primitive s i x d) (hover : s.noOverlap i) : Machine.admission s i = none := by
  cases h <;> exact admission_i2c rfl (by simp [transferClasses]) hover

/-- At u0, in a phase that admits the operation. -/
theorem exec_issue (h : Primitive s i x d) (hk : s.cur = some k) (hu : k.uph = 0) (hover : s.noOverlap i)
    (hph : admitsI2c x s.i2c.ph = true) :
    exec i s = i2cIssue x (s.setI2cData d) fun t => .next (t.goto k 1) := by
  have ha := h.admission hover
  cases k
  cases hu
  cases h with
  | start => exact microStep_run hk fun _ => ha
  | write => exact (microStep_run hk fun _ => ha).trans (if_pos (admitsI2c_write_iff.mp hph))
  | readAck => exact (microStep_run hk fun _ => ha).trans (if_pos (admitsI2c_readAck_iff.mp hph))
  | readNack => exact (microStep_run hk fun _ => ha).trans (if_pos (admitsI2c_readNack_iff.mp hph))

/-- At u0, in a phase that does not: the phase is checked before the enable (log entry 10). -/
theorem exec_refused (h : Primitive s i x d) (hk : s.cur = some k) (hu : k.uph = 0) (hover : s.noOverlap i)
    (hph : admitsI2c x s.i2c.ph = false) : exec i s = .refused .outOfSequence := by
  have ha := h.admission hover
  have hno : ¬ admitsI2c x s.i2c.ph = true := by simp [hph]
  cases k
  cases hu
  cases h with
  | start => cases hph
  | write => exact (microStep_run hk fun _ => ha).trans (if_neg (mt admitsI2c_write_iff.mpr hno))
  | readAck => exact (microStep_run hk fun _ => ha).trans (if_neg (mt admitsI2c_readAck_iff.mpr hno))
  | readNack => exact (microStep_run hk fun _ => ha).trans (if_neg (mt admitsI2c_readNack_iff.mpr hno))

/-- At u0, with the unit enabled and the phase admitting the operation, it is handed over. -/
theorem hands_over (h : Primitive s i x d) (hk : s.cur = some k) (hu : k.uph = 0) (hover : s.noOverlap i)
    (hen : s.i2c.en = true) (hph : admitsI2c x s.i2c.ph = true) :
    ∃ t, exec i s = .next t ∧ t.i2c = { s.i2c with dr := d, op := some x, done := false } ∧
      GoesOn s t { k with uph := 1 } ∧ OutsideI2cUnit s t :=
  h.exec_issue hk hu hover hph ▸ eepromIssue_goesOn hen hph

/-- At u1 the end of the operation is waited for, and a read returns the byte. -/
theorem exec_wait (h : Primitive s i x d) (hk : s.cur = some k) (hu : k.uph = 1) :
    exec i s = holdUntil s.i2c.done s
      (.next (if i = .i2cRdack ∨ i = .i2cRdnack then s.setRet s.i2c.dr else s).complete) := by
  cases k
  cases hu
  cases h <;> exact microStep_run hk (fun h => nomatch h)

end Primitive

/-- The operation and the byte of each primitive, and that the phase is one that accepts it. -/
theorem primitive_of_admitting {s : State} {i : Instr} {x : I2cOp} {d : Byte}
    (h : (i = .i2cStart ∧ x = .start ∧ d = s.i2c.dr) ∨
      (i = .i2cWrite d ∧ x = .write ∧ (s.i2c.ph = .addr ∨ s.i2c.ph = .mt)) ∨
      (i = .i2cRdack ∧ x = .readAck ∧ d = s.i2c.dr ∧ s.i2c.ph = .mr) ∨
      (i = .i2cRdnack ∧ x = .readNack ∧ d = s.i2c.dr ∧ s.i2c.ph = .mr)) :
    Primitive s i x d ∧ admitsI2c x s.i2c.ph = true := by
  obtain ⟨rfl, rfl, rfl⟩ | ⟨rfl, rfl, hph⟩ | ⟨rfl, rfl, rfl, hph⟩ | ⟨rfl, rfl, rfl, hph⟩ := h
  · exact ⟨.start, rfl⟩
  · exact ⟨.write d, admitsI2c_write_iff.mpr hph⟩
  · exact ⟨.readAck, admitsI2c_readAck_iff.mpr hph⟩
  · exact ⟨.readNack, admitsI2c_readNack_iff.mpr hph⟩

section OutOfSequence
variable {s : State} {k : InFlight} {b : Byte}

/-- A write outside ADDR and MT is out of sequence, before init too (R206). -/
theorem exec_i2cWrite_outOfSequence (hk : s.cur = some k) (hu : k.uph = 0) (hover : s.noOverlap (.i2cWrite b))
    (haddr : s.i2c.ph ≠ .addr) (hmt : s.i2c.ph ≠ .mt) : exec (.i2cWrite b) s = .refused .outOfSequence :=
  (Primitive.write b).exec_refused hk hu hover
    (Bool.eq_false_iff.mpr fun h => (admitsI2c_write_iff.mp h).elim haddr hmt)

/-- A read outside MR is out of sequence, before init too (R206). -/
theorem exec_read_outOfSequence {i : Instr} (hi : i = .i2cRdack ∨ i = .i2cRdnack) (hk : s.cur = some k) (hu : k.uph = 0)
    (hover : s.noOverlap i) (hmr : s.i2c.ph ≠ .mr) : exec i s = .refused .outOfSequence := by
  obtain rfl | rfl := hi
  · exact Primitive.readAck.exec_refused hk hu hover (Bool.eq_false_iff.mpr (mt admitsI2c_readAck_iff.mp hmr))
  · exact Primitive.readNack.exec_refused hk hu hover (Bool.eq_false_iff.mpr (mt admitsI2c_readNack_iff.mp hmr))

end OutOfSequence

/-- Settles O36: the issue step of a primitive, admitted by its phase or not, with the unit enabled or not. -/
theorem i2cPrimitivesIssue : Obligations.I2cPrimitivesIssue := by
  refine ⟨?_, ?_⟩
  · rintro s k i x d hprim ⟨hk, -, hu⟩ hover
    obtain ⟨hprim, hph⟩ := primitive_of_admitting hprim
    exact ⟨fun hen => hprim.hands_over hk hu hover hen hph,
      fun hen => (hprim.exec_issue hk hu hover hph).trans (i2cIssue_notInitialised hen)⟩
  · rintro s k i d hprim ⟨hk, -, hu⟩ hover -
    obtain ⟨rfl, haddr, hmt⟩ | ⟨hread, hmr⟩ := hprim
    · exact exec_i2cWrite_outOfSequence hk hu hover haddr hmt
    · exact exec_read_outOfSequence hread hk hu hover hmr

/-- Settles O37: the wait step of a primitive. -/
theorem i2cPrimitivesWait : Obligations.I2cPrimitivesWait := by
  rintro s k i b hi ⟨hk, -, hu⟩
  obtain ⟨x, d, hprim⟩ : ∃ x d, Primitive s i x d := by
    obtain rfl | rfl | rfl | rfl := hi
    · exact ⟨_, _, .start⟩
    · exact ⟨_, _, .write b⟩
    · exact ⟨_, _, .readAck⟩
    · exact ⟨_, _, .readNack⟩
  have hexec := hprim.exec_wait hk hu
  refine ⟨fun hdone => ⟨_, hexec.trans (holdUntil_open hdone), ?_⟩, fun hdone => hexec.trans (holdUntil_held hdone)⟩
  split
  · exact ⟨SameControl.completesWith ⟨rfl⟩ _, outsideBank_setRet_complete s _⟩
  · exact ⟨SameControl.completes ⟨rfl⟩, outsideBank_setCur s none⟩

/-! ### `I2C_STOP` and `I2C_STATUS` (R216, R218) -/

section Stop
variable {s : State} {k : InFlight}

theorem exec_i2cStop (hk : s.cur = some k) (hu : k.uph = 0) (hover : s.noOverlap .i2cStop) :
    exec .i2cStop s = if s.i2c.en = true then .next s.stopStep.complete else .refused .notInitialised := by
  have ha : admission s .i2cStop = none := admission_i2c rfl (by simp [transferClasses]) hover
  cases k
  cases hu
  exact microStep_run hk fun _ => ha

theorem exec_i2cStatus (hk : s.cur = some k) (hu : k.uph = 0) (hover : s.noOverlap .i2cStatus) :
    exec .i2cStatus s = .next (s.setRet (statusCode s.i2c.sr)).complete := by
  have ha : admission s .i2cStatus = none := admission_i2c rfl (by simp [transferClasses]) hover
  cases k
  cases hu
  exact microStep_run hk fun _ => ha

theorem stopStep_i2c (s : State) : s.stopStep.i2c = { s.i2c with
    ph := .idle, owned := false,
    sr := BitVec.ofNat 8 (8 * (Config.drawCode s.draws).toNat + s.i2c.sr.toNat % 8),
    bus := s.i2c.bus ++ (if s.i2c.owned then [.stop] else []) } := by
  cases howned : s.i2c.owned <;> simp [State.stopStep, withStatus, howned]

end Stop

/-- Settles O38: the stop of an enabled unit, and the refusal of one that is not. -/
theorem i2cStopReleases : Obligations.I2cStopReleases := by
  rintro s k ⟨hk, -, hu⟩ hover
  have hexec := exec_i2cStop hk hu hover
  refine ⟨fun hen => ⟨_, Config.drawCode s.draws, hexec.trans (if_pos hen), by rw [State.complete_i2c, stopStep_i2c],
    SameControl.completes ⟨rfl⟩, ?_, outsideI2c_complete _ _ _⟩, fun hen => hexec.trans (if_neg (by simp [hen]))⟩
  simpa only [DeviceAfterStop, State.complete_dev] using stopStep_device s

/-- Settles O39: the mask of the status register, as arithmetic. -/
theorem i2cStatusMasks : Obligations.I2cStatusMasks := by
  rintro s k ⟨hk, -, hu⟩ hover
  exact ⟨_, _, exec_i2cStatus hk hu hover, statusCode_toNat s.i2c.sr, SameControl.completesWith ⟨rfl⟩ _,
    outsideBank_setRet_complete s _⟩

/-- Settles O40: the refusals of the table, and command by command the other entries. -/
theorem outOfSequenceIsRefused : Obligations.OutOfSequenceIsRefused := by
  rintro s k i b tier addr7 ⟨hk, -, hu⟩ hover hen
  have hadmits {x : I2cOp} {d : Byte} (hprim : Primitive s i x d) (hph : admitsI2c x s.i2c.ph = true) :
      ∃ t, exec i s = .next t := by
    obtain ⟨t, ht, -⟩ := hprim.hands_over hk hu hover hen hph
    exact ⟨t, ht⟩
  refine ⟨?_, fun hread => exec_read_outOfSequence hread hk hu hover, ?_⟩
  · rintro rfl
    exact exec_i2cWrite_outOfSequence hk hu hover
  · rintro (⟨rfl, hph⟩ | ⟨rfl | rfl, hph⟩ | rfl | rfl | rfl | ⟨rfl, hlegal⟩)
    · exact hadmits (.write b) (admitsI2c_write_iff.mpr hph)
    · exact hadmits .readAck (admitsI2c_readAck_iff.mpr hph)
    · exact hadmits .readNack (admitsI2c_readNack_iff.mpr hph)
    · exact hadmits .start rfl
    · exact ⟨_, (exec_i2cStop hk hu hover).trans (if_pos hen)⟩
    · exact ⟨_, exec_i2cStatus hk hu hover⟩
    · exact ⟨_, exec_i2cInit hk hu
        (admission_i2c (wellFormed_i2cInit.mpr hlegal) (by simp [transferClasses]) hover)⟩

end Sys2Proof.Proofs
end

section
/-!
PROOFS. The bus engine I2B (43_i2c.md rules R220 to R226, R229): which of its actions the pending operation and the phase
select, and how an operation ends that succeeds and one that fails.
-/

namespace Sys2Proof.Proofs

open Sys2Proof Sys2Proof.Machine

/-! ### The action by the pending operation and the phase (R220) -/

section Action
variable {s : State} (r : BusReply)

theorem i2bStep_start (hop : s.i2c.op = some .start) : i2bStep r s = i2bStart r s := by
  simp [i2bStep, hop]

theorem i2bStep_addr (hop : s.i2c.op = some .write) (hph : s.i2c.ph = .addr) : i2bStep r s = i2bAddr r s := by
  simp [i2bStep, hop, hph]

theorem i2bStep_data (hop : s.i2c.op = some .write) (hph : s.i2c.ph = .mt) : i2bStep r s = i2bData r s := by
  simp [i2bStep, hop, hph]

theorem i2bStep_readAck (hop : s.i2c.op = some .readAck) (hph : s.i2c.ph = .mr) :
    i2bStep r s = i2bRead true r s := by
  simp [i2bStep, hop, hph]

theorem i2bStep_readNack (hop : s.i2c.op = some .readNack) (hph : s.i2c.ph = .mr) :
    i2bStep r s = i2bRead false r s := by
  simp [i2bStep, hop, hph]

/-- I2B's turn is its step in the state without the turn. -/
theorem step_i2b {r : BusReply} {rest : List Turn} (ht : s.turns = .i2b r :: rest) :
    step s = .next (i2bStep r { s with turns := rest }) := step_cons ht

end Action

/-! ### An operation that succeeds (R220, R222 to R225) -/

/-- The code of a success stands in the status bits, over the low bits that were there. -/
theorem withStatus_codeBits (sr code : Byte) :
    withStatus sr (codeBits code) = BitVec.ofNat 8 (code.toNat / 8 * 8 + sr.toNat % 8) := by
  rw [withStatus, codeBits_toNat, Nat.mul_comm]

theorem i2cSucceeds_eq (s : State) (code : Byte) (ph : I2cPhase) (ev : BusEvent) :
    s.i2cSucceeds code ph ev = { s with i2c := { s.i2c with
      sr := BitVec.ofNat 8 (code.toNat / 8 * 8 + s.i2c.sr.toNat % 8), ph := ph, bus := s.i2c.bus ++ [ev], op := none,
      done := true } } := by
  rw [State.i2cSucceeds, I2c.ended, withStatus_codeBits]

/-- The operation `x`, answered with the byte `v`: the data register, the code, the phase, the event and the ownership that
it leaves (R222 to R225). -/
inductive SucceedsWith (s : State) (v : Byte) : I2cOp → Byte → Byte → I2cPhase → BusEvent → Bool → Prop
  | start (howned : s.i2c.owned = false) : SucceedsWith s v .start s.i2c.dr s.params.stStart .addr .start true
  | repStart (howned : s.i2c.owned = true) : SucceedsWith s v .start s.i2c.dr s.params.stRepStart .addr .repStart true
  | addrToWrite (hph : s.i2c.ph = .addr) (hdir : s.i2c.dr.getLsbD 0 = false) :
      SucceedsWith s v .write s.i2c.dr s.params.stMtSlaAck .mt (.addr s.i2c.dr .a) s.i2c.owned
  | addrToRead (hph : s.i2c.ph = .addr) (hdir : s.i2c.dr.getLsbD 0 = true) :
      SucceedsWith s v .write s.i2c.dr s.params.stMrSlaAck .mr (.addr s.i2c.dr .a) s.i2c.owned
  | data (hph : s.i2c.ph = .mt) :
      SucceedsWith s v .write s.i2c.dr s.params.stMtDataAck .mt (.data s.i2c.dr .a) s.i2c.owned
  | readAck (hph : s.i2c.ph = .mr) : SucceedsWith s v .readAck v s.params.stMrDataAck .mr (.read v .a) s.i2c.owned
  | readNack (hph : s.i2c.ph = .mr) :
      SucceedsWith s v .readNack v s.params.stMrDataNack .mrEnd (.read v .n) s.i2c.owned

theorem SucceedsWith.i2bStep_eq {s : State} {v : Byte} {x : I2cOp} {dr code : Byte} {ph : I2cPhase} {ev : BusEvent}
    {own : Bool} (h : SucceedsWith s v x dr code ph ev own) (hop : s.i2c.op = some x) :
    i2bStep (.ok v) s = { s with i2c := { s.i2c with
      dr := dr, sr := BitVec.ofNat 8 (code.toNat / 8 * 8 + s.i2c.sr.toNat % 8), ph := ph, owned := own,
      bus := s.i2c.bus ++ [ev], op := none, done := true } } := by
  cases h with
  | start howned | repStart howned => simp [i2bStep_start _ hop, i2bStart, i2cSucceeds_eq, State.startCode, howned]
  | addrToWrite hph hdir | addrToRead hph hdir =>
    simp only [i2bStep_addr _ hop hph, i2bAddr, i2cSucceeds_eq, State.addressCode, hdir, if_true, if_false, reduceCtorEq]
  | data hph => simp [i2bStep_data _ hop hph, i2bData, i2cSucceeds_eq]
  | readAck hph => simp [i2bStep_readAck _ hop hph, i2bRead, i2cSucceeds_eq, State.setI2cData]
  | readNack hph => simp [i2bStep_readNack _ hop hph, i2bRead, i2cSucceeds_eq, State.setI2cData]

/-- Settles O41: each row of the transition table is one of the ways to succeed. -/
theorem busOperationSucceeds : Obligations.BusOperationSucceeds := by
  intro s rest v x code dr ph ev own ht hop hrow
  have hsucceeds : SucceedsWith { s with turns := rest } v x dr code ph ev own := by
    obtain ⟨rfl, rfl, rfl, rfl, ⟨howned, rfl, rfl⟩ | ⟨howned, rfl, rfl⟩⟩ |
      ⟨rfl, hph, rfl, rfl, rfl, ⟨hdir, rfl, rfl⟩ | ⟨hdir, rfl, rfl⟩⟩ | ⟨rfl, hph, rfl, rfl, rfl, rfl, rfl⟩ |
      ⟨rfl, hph, rfl, rfl, rfl, rfl, rfl⟩ | ⟨rfl, hph, rfl, rfl, rfl, rfl, rfl⟩ := hrow
    · exact .start howned
    · exact .repStart howned
    · exact .addrToWrite hph hdir
    · exact .addrToRead hph hdir
    · exact .data hph
    · exact .readAck hph
    · exact .readNack hph
  exact (step_i2b ht).trans (congrArg _ (hsucceeds.i2bStep_eq hop))

/-! ### An operation that fails (R222 to R226) -/

/-- The code of a failure, over low bits that are zero, is not the success code. -/
theorem failBits_code_ne (okcode : Byte) (drawn : BitVec 5) :
    BitVec.ofNat 8 (8 * (failBits okcode drawn).toNat) ≠ okcode := by
  intro h
  have hbits := failBits_ne okcode drawn
  generalize failBits okcode drawn = c at h hbits
  have hc := c.isLt
  refine hbits (BitVec.eq_of_toNat_eq ?_)
  rw [codeBits_toNat, ← h, BitVec.toNat_ofNat]
  omega

/-- The failing answer `r` to the operation `x`: the event it leaves and the success code that it does not report (R222 to
R226). -/
inductive FailsWith (s : State) : I2cOp → BusReply → List BusEvent → Byte → Prop
  | start : FailsWith s .start .fault [] s.startCode
  | addrNack (hph : s.i2c.ph = .addr) : FailsWith s .write .nack [.addr s.i2c.dr .n] s.addressCode
  | addrFault (hph : s.i2c.ph = .addr) : FailsWith s .write .fault [.fault] s.addressCode
  | dataNack (hph : s.i2c.ph = .mt) : FailsWith s .write .nack [.data s.i2c.dr .n] s.params.stMtDataAck
  | dataFault (hph : s.i2c.ph = .mt) : FailsWith s .write .fault [.fault] s.params.stMtDataAck
  | readAck (hph : s.i2c.ph = .mr) : FailsWith s .readAck .fault [.fault] s.params.stMrDataAck
  | readNack (hph : s.i2c.ph = .mr) : FailsWith s .readNack .fault [.fault] s.params.stMrDataNack

/-- The operation fails, and a read leaves the data register with some value. -/
theorem FailsWith.i2bStep_eq {s : State} {x : I2cOp} {r : BusReply} {ev : List BusEvent} {okcode : Byte}
    (h : FailsWith s x r ev okcode) (hop : s.i2c.op = some x) :
    ∃ d, i2bStep r s = (s.setI2cData d).i2cFails okcode ev ∧ (x = .start ∨ x = .write → d = s.i2c.dr) := by
  cases h with
  | start => exact ⟨s.i2c.dr, i2bStep_start _ hop, fun _ => rfl⟩
  | addrNack hph | addrFault hph => exact ⟨s.i2c.dr, i2bStep_addr _ hop hph, fun _ => rfl⟩
  | dataNack hph | dataFault hph => exact ⟨s.i2c.dr, i2bStep_data _ hop hph, fun _ => rfl⟩
  | readAck hph => exact ⟨Config.drawByte s.draws, i2bStep_readAck _ hop hph, by simp⟩
  | readNack hph => exact ⟨Config.drawByte s.draws, i2bStep_readNack _ hop hph, by simp⟩

/-- Settles O42: the operation fails with the code drawn, or the next one where that is the success code. -/
theorem busOperationFails : Obligations.BusOperationFails := by
  intro s rest r x okcode ev ht hop _ hrow
  have hfails : FailsWith { s with turns := rest } x r ev okcode := by
    obtain ⟨rfl, rfl, rfl, rfl⟩ | ⟨rfl, hph, ⟨rfl, rfl⟩ | ⟨rfl, rfl⟩, rfl⟩ | ⟨rfl, hph, ⟨rfl, rfl⟩ | ⟨rfl, rfl⟩, rfl⟩ |
      ⟨rfl, hph, rfl, rfl, rfl⟩ | ⟨rfl, hph, rfl, rfl, rfl⟩ := hrow
    · exact .start
    · exact .addrNack hph
    · exact .addrFault hph
    · exact .dataNack hph
    · exact .dataFault hph
    · exact .readAck hph
    · exact .readNack hph
  obtain ⟨d, hstep, hd⟩ := hfails.i2bStep_eq hop
  exact ⟨_, failBits okcode (Config.drawCode s.draws), d, (step_i2b ht).trans (congrArg _ hstep),
    failBits_code_ne okcode _, hd, rfl⟩

end Sys2Proof.Proofs
end

section
/-!
PROOFS. The starts of the EEPROM commands on one schedule (44_eeprom.md rules R244, R246, R248, R249, R256; log entry 1): the
issue of the start, the answer of the bus, and the check of the code.
-/

namespace Sys2Proof.Proofs

open Sys2Proof Sys2Proof.Machine

/-! ### The code that an ended operation reports (R201, R222, R226) -/

/-- The bits [2:0] of the seven codes are zero (R5). -/
theorem low_bits_of_code {p : Params} (hwf : p.wf = true) {c : Byte} (hc : c ∈ p.codes) : c.toNat % 8 = 0 := by
  simp only [Params.wf, Bool.and_eq_true, List.all_eq_true, beq_iff_eq] at hwf
  obtain ⟨⟨-, hcodes⟩, -⟩ := hwf
  have hmask : (c &&& 0x07).toNat = c.toNat % 8 := (BitVec.toNat_and ..).trans (Nat.and_two_pow_sub_one_eq_mod _ 3)
  rw [← hmask, hcodes c hc]
  rfl

theorem startCode_mem (s : State) : s.startCode ∈ s.params.codes := by
  unfold State.startCode
  split <;> simp [Params.codes]

/-- What the unit `v` says of a start handed over in the unit `u` and answered with `r`. -/
structure StartAnswered (u : I2c) (okcode : Byte) (r : BusReply) (v : I2c) : Prop where
  done : v.done = true
  fails : r = .fault → v.sr &&& 0xF8 ≠ okcode ∧ v.bus = u.bus ∧ v.ph = .fail ∧ v.owned = u.owned
  succeeds : r ≠ .fault → v.sr &&& 0xF8 = okcode ∧ v.bus = u.bus ++ [if u.owned then .repStart else .start] ∧
    v.ph = .addr ∧ v.owned = true

/-- I2B ends the start: a success reports the start code, and a failure another one (R222, R226). -/
theorem i2bStep_answers_start {s : State} {r : BusReply} (hop : s.i2c.op = some .start) (hwf : s.params.wf = true)
    (hr : r = .fault ∨ ∃ v, r = .ok v) :
    ∃ v n, i2bStep r s = { s with i2c := v, draws := n } ∧ StartAnswered s.i2c s.startCode r v := by
  have hlow : s.startCode.toNat % 8 = 0 := low_bits_of_code hwf (startCode_mem s)
  have hcode (bits : BitVec 5) : withStatus s.i2c.sr bits &&& 0xF8 = s.startCode ↔ bits = codeBits s.startCode :=
    statusCode_withStatus_eq s.i2c.sr s.startCode bits hlow
  obtain rfl | ⟨b, rfl⟩ := hr
  · refine ⟨_, _, i2bStep_start _ hop, rfl, fun _ => ⟨?_, List.append_nil _, rfl, rfl⟩, fun h => absurd rfl h⟩
    exact mt (hcode _).mp (failBits_ne _ _)
  · exact ⟨_, _, i2bStep_start _ hop, rfl, fun h => (nomatch h), fun _ => ⟨(hcode _).mpr rfl, rfl, rfl, rfl⟩⟩

/-! ### The micro-steps of a start (R244, R246) -/

/-- The command `i` hands a start over at u`n`, and expects the code at the next micro-step. -/
inductive EepromStart (p : Params) : Instr → Nat → Byte → Prop
  | write (ea : EepromAddr) (data : Byte) : EepromStart p (.eeWrite ea data) 0 p.stStart
  | read (ea : EepromAddr) (out : Addr) : EepromStart p (.eeRead ea out) 0 p.stStart
  | readAgain (ea : EepromAddr) (out : Addr) : EepromStart p (.eeRead ea out) 6 p.stRepStart

section Start
variable {s t : State} {k : InFlight} {i : Instr} {n : Nat} {expected : Byte} {r : BusReply}

theorem EepromStart.exec_issue (h : EepromStart s.params i n expected) (hk : s.cur = some k) (hu : k.uph = n)
    (hover : n = 0 → s.noOverlap i) :
    exec i s = i2cIssue .start s fun t => .next (t.goto k (n + 1)) := by
  have ha : n = 0 → admission s i = none := fun hn => by
    cases h <;> exact admission_i2c rfl (by simp [transferClasses]) (hover hn)
  cases k
  cases hu
  cases h <;> exact microStep_run hk ha

theorem EepromStart.exec_wait (h : EepromStart s.params i n expected) (hk : s.cur = some k) (hu : k.uph = n + 1) :
    exec i s = eepromWait expected s k (n + 2) := by
  cases k
  cases hu
  cases h <;> exact microStep_run hk (fun h => nomatch h)

/-- `t` stands in a start that began in `s`: the I2C unit is `u` and the command in flight is `k`, and what else the start
reads is as in `s`. -/
structure Starting (s : State) (u : I2c) (k : InFlight) (t : State) : Prop where
  params : t.params = s.params
  ctx : t.ctx = s.ctx
  mem : t.mem = s.mem
  i2c : t.i2c = u
  cur : t.cur = some k

/-- The start is handed over. -/
theorem leads_issue (h : EepromStart s.params i n expected) (hk : s.cur = some k) (hi : k.instr = some i)
    (hu : k.uph = n) (hover : n = 0 → s.noOverlap i) (hen : s.i2c.en = true) :
    Leads s [.cmd] (Starting s { s.i2c with op := some .start, done := false } { k with uph := n + 1 }) :=
  .cmd hk hi fun rest => ⟨_, (h.exec_issue (s := { s with turns := rest }) hk hu hover).trans (i2cIssue_admitted hen rfl),
    by simp, by simp, by simp, by simp, by simp, by simp⟩

/-- The bus answers the start. -/
theorem leads_answer {u : I2c} (h : Starting s u k t) (hop : u.op = some .start) (howned : u.owned = s.i2c.owned)
    (hwf : s.params.wf = true) (hr : r = .fault ∨ ∃ v, r = .ok v) :
    Leads t [.i2b r] fun w => ∃ v, StartAnswered u s.startCode r v ∧ Starting s v k w := by
  obtain ⟨hparams, hctx, hmem, rfl, hcur⟩ := h
  have hcode : t.startCode = s.startCode := by rw [State.startCode, State.startCode, howned, hparams]
  refine .turn fun rest => ?_
  obtain ⟨v, m, hv, hanswered⟩ := i2bStep_answers_start (s := { t with turns := rest }) hop (hparams ▸ hwf) hr
  exact ⟨_, congrArg Host.Outcome.next hv, rfl, v, hcode ▸ hanswered, hparams, hctx, hmem, rfl, hcur⟩

theorem cur_of_goesOn (haround : SameAround s t) (h : GoesOn s t k) : t.cur = some k := by
  obtain ⟨-, hctx, -⟩ := haround
  rw [State.cur, hctx, h]

theorem cur_of_completesResult {v : BitVec 1} (haround : SameAround s t) (h : CompletesResult s t v) :
    t.cur = none := by
  obtain ⟨-, hctx, -⟩ := haround
  rw [State.cur, hctx, h]

/-- The check of the code that the unit reports in `t`: another code than the one expected ends the command with the error
result, and the one expected lets it go on at u`n` (R248, R249). -/
structure Checked (s : State) (k : InFlight) (n : Nat) (expected : Byte) (t : State) : Prop where
  mem : SameMemory s t
  mismatch : t.i2c.sr &&& 0xF8 ≠ expected → (t.bank s.ctx).res = 1 ∧ t.cur = none
  agrees : t.i2c.sr &&& 0xF8 = expected → t.cur = some { k with uph := n }

/-- The code is checked, and the unit is left as it is. -/
theorem leads_check {u : I2c} (h : Starting s u k t) (hstart : EepromStart s.params i n expected)
    (hi : k.instr = some i) (hu : k.uph = n + 1) (hdone : u.done = true) :
    Leads t [.cmd] fun w => w.i2c = u ∧ Checked s k (n + 2) expected w := by
  obtain ⟨hparams, hctx, hmem, rfl, hcur⟩ := h
  refine .cmd hcur hi fun rest => ?_
  obtain ⟨w, hw, hends, -, -, ⟨hi2c, -⟩, hsame, haround⟩ :=
    eepromWait_ends (s := { t with turns := rest }) (k := k) (n := n + 2) (code := expected) hdone
  have hexec := EepromStart.exec_wait (s := { t with turns := rest }) (hparams ▸ hstart) hcur hu
  have ⟨_, _, _, _, hturns, _⟩ := haround
  refine ⟨w, hexec.trans hw, hturns, hi2c, fun a => (hsame a).trans (sameMemory_of_mem hmem a), fun hne => ?_,
    fun heq => ?_⟩
  · rw [hi2c] at hne
    rw [if_neg hne] at hends
    refine ⟨?_, cur_of_completesResult haround hends⟩
    rw [← hctx]
    exact congrArg Bank.res hends
  · rw [hi2c] at heq
    rw [if_pos heq] at hends
    exact cur_of_goesOn haround hends

end Start

/-- Settles O46: the start is handed over, answered and checked, in three turns. -/
theorem eepromStopsAtAStartMismatch : Obligations.EepromStopsAtAStartMismatch := by
  rintro s k i ea d out n expected okcode r hi ⟨hk, hinstr, hu⟩ hover hwf hen rfl hr
  have hstart : EepromStart s.params i n expected := by
    obtain ⟨rfl | rfl, rfl, rfl⟩ | ⟨rfl, rfl, rfl⟩ := hi
    · exact .write ea d
    · exact .read ea out
    · exact .readAgain ea out
  have hall : Leads s [.cmd, .i2b r, .cmd] fun w =>
      StartAnswered { s.i2c with op := some .start, done := false } s.startCode r w.i2c ∧
        Checked s { k with uph := n + 1 } (n + 2) expected w :=
    (leads_issue hstart hk hinstr hu hover hen).append (us := [.i2b r, .cmd]) fun t ht =>
      (leads_answer ht rfl rfl hwf hr).append (us := [.cmd]) fun w ⟨v, hanswered, hw⟩ =>
        (leads_check hw hstart hinstr rfl hanswered.done).mono fun z ⟨hz, hchecked⟩ => ⟨hz ▸ hanswered, hchecked⟩
  obtain ⟨t, hruns, ⟨-, hfails, hsucceeds⟩, hmem, hmismatch, hagrees⟩ := hall.runs
  exact ⟨t, hruns, hmem, hmismatch, hagrees, hfails, hsucceeds⟩

end Sys2Proof.Proofs
end

section
/-!
PROOFS. `EE_WRITE` micro-step by micro-step (44_eeprom.md rules R244, R248, R249): the issue steps with the byte each sends,
the wait steps with the code each expects, and the stop.
-/

namespace Sys2Proof.Proofs

open Sys2Proof Sys2Proof.Machine

/-! ### `EE_WRITE` (R244) -/

/-- The issue steps of `EE_WRITE`: micro-phase, operation, and the byte that then stands in the data register. -/
def eeWriteIssues (ea : EepromAddr) (data : Byte) (s : State) : List (Nat × I2cOp × Byte) :=
  [(0, .start, s.i2c.dr), (2, .write, selectByte ea false), (4, .write, lowAddress ea), (6, .write, data)]

/-- The wait steps of `EE_WRITE`, and the status code each checks. -/
def eeWriteWaits (s : State) : List (Nat × Byte) :=
  [(1, s.params.stStart), (3, s.params.stMtSlaAck), (5, s.params.stMtDataAck), (7, s.params.stMtDataAck)]

section EeWrite
variable {s : State} {k : InFlight} {n : Nat} {ea : EepromAddr} {data : Byte}

theorem admission_eeWrite (hover : s.noOverlap (.eeWrite ea data)) : admission s (.eeWrite ea data) = none :=
  admission_i2c rfl (by simp [transferClasses]) hover

theorem exec_eeWrite_issue {x : I2cOp} {b : Byte} (hk : s.cur = some k) (hu : k.uph = n)
    (ha : n = 0 → admission s (.eeWrite ea data) = none) (hx : (n, x, b) ∈ eeWriteIssues ea data s) :
    exec (.eeWrite ea data) s = i2cIssue x (s.setI2cData b) fun t => .next (t.goto k (n + 1)) := by
  cases k
  cases hu
  refine (microStep_run hk ha).trans ?_
  simp only [eeWriteIssues, List.mem_cons, Prod.mk.injEq, List.not_mem_nil, or_false] at hx
  obtain ⟨rfl, rfl, rfl⟩ | ⟨rfl, rfl, rfl⟩ | ⟨rfl, rfl, rfl⟩ | ⟨rfl, rfl, rfl⟩ := hx <;> rfl

theorem exec_eeWrite_wait {c : Byte} (hk : s.cur = some k) (hu : k.uph = n) (hc : (n, c) ∈ eeWriteWaits s) :
    exec (.eeWrite ea data) s = eepromWait c s k (n + 1) := by
  cases k
  cases hu
  simp only [eeWriteWaits, List.mem_cons, Prod.mk.injEq, List.not_mem_nil, or_false] at hc
  obtain ⟨rfl, rfl⟩ | ⟨rfl, rfl⟩ | ⟨rfl, rfl⟩ | ⟨rfl, rfl⟩ := hc <;> exact microStep_run hk (fun h => nomatch h)

theorem exec_eeWrite_finish (hk : s.cur = some k) (hu : k.uph = 8) :
    exec (.eeWrite ea data) s = eepromFinish s := by
  cases k
  cases hu
  exact microStep_run hk (fun h => nomatch h)

end EeWrite

/-- Settles O43: the issue steps, the wait steps and the stop of the sequence. -/
theorem eeWriteMicroSteps : Obligations.EeWriteMicroSteps := by
  rintro s k ea data n ⟨hk, -, hu⟩ hover
  have ha (hn : n = 0) : admission s (.eeWrite ea data) = none := admission_eeWrite (hover hn)
  have hselect : selectByte ea false = BitVec.ofNat 8 (0xA0 + 2 * (ea.toNat / 256)) := selectByte_eq ea false
  have hissue {x : I2cOp} {b : Byte} (hx : (n, x, b) ∈ eeWriteIssues ea data s) := exec_eeWrite_issue hk hu ha hx
  refine ⟨fun x b hx hen => ?_, fun hn hen => ?_, fun c hc => ?_, fun hn => ?_⟩
  · rw [← hselect, ← lowAddress_eq] at hx
    rw [hissue hx]
    refine ⟨fun hph => eepromIssue_goesOn hen ?_, ?_⟩
    · obtain rfl | hph := hph
      · rfl
      · have hop : x = .start ∨ x = .write := by
          simp only [List.mem_cons, Prod.mk.injEq, List.not_mem_nil, or_false] at hx
          tauto
        obtain rfl | rfl := hop
        · rfl
        · exact admitsI2c_write_iff.mpr hph
    · rintro rfl haddr hmt
      exact i2cIssue_outOfSequence hen (Bool.eq_false_iff.mpr fun h => (admitsI2c_write_iff.mp h).elim haddr hmt)
  · obtain ⟨x, b, hx⟩ : ∃ x b, (n, x, b) ∈ eeWriteIssues ea data s := by
      obtain rfl | rfl | rfl | rfl := hn <;> simp [eeWriteIssues]
    exact (hissue hx).trans (i2cIssue_notInitialised hen)
  · rw [exec_eeWrite_wait hk hu hc]
    exact ⟨eepromWait_ends, holdUntil_held⟩
  · subst hn
    rw [exec_eeWrite_finish hk hu]
    exact eepromFinish_ends s

end Sys2Proof.Proofs
end

section
/-!
PROOFS. A byte written to the reference device and read back, on one schedule (44_eeprom.md rules R244, R246, R254, R255; log
entry 1): the exchanges over the bus that the device answers, a round of issue, answer and check, and the two sequences.
-/

namespace Sys2Proof.Proofs

open Sys2Proof Sys2Proof.Machine

/-! ### The select byte, the address byte and the pointer (R241, R254) -/

theorem selectByte_direction (ea : EepromAddr) (read : Bool) : (selectByte ea read).getLsbD 0 = read := by
  rw [selectByte]
  generalize ea.extractLsb' 8 3 = high
  revert high read
  decide

/-- The nibble that the device answers to. -/
theorem selectByte_nibble (ea : EepromAddr) (read : Bool) : (selectByte ea read).extractLsb' 4 4 = 0b1010 := by
  rw [selectByte]
  generalize ea.extractLsb' 8 3 = high
  revert high read
  decide

theorem selectByte_high (ea : EepromAddr) (read : Bool) :
    (selectByte ea read).extractLsb' 1 3 = ea.extractLsb' 8 3 := by
  rw [selectByte]
  generalize ea.extractLsb' 8 3 = high
  revert high read
  decide

theorem pointerWith_high (high : BitVec 3) (low : Byte) : (pointerWith high low).extractLsb' 8 3 = high := by
  have hhigh := high.isLt
  have hlow := low.isLt
  apply BitVec.eq_of_toNat_eq
  rw [pointerWith, BitVec.extractLsb'_toNat, BitVec.toNat_ofNat, Nat.shiftRight_eq_div_pow]
  omega

/-- The two parts of an address make the address. -/
theorem pointerWith_parts (ea : EepromAddr) : pointerWith (ea.extractLsb' 8 3) (lowAddress ea) = ea := by
  have hea := ea.isLt
  apply BitVec.eq_of_toNat_eq
  simp only [pointerWith, lowAddress, BitVec.toNat_ofNat, BitVec.extractLsb'_toNat, Nat.shiftRight_eq_div_pow]
  omega

/-! ### An exchange that the device answers (R220, R222 to R225, R254) -/

/-- What an exchange over the bus reads and writes: the phase and the ownership in the unit, and the device. -/
structure Link where
  ph : I2cPhase
  owned : Bool
  dev : Device

/-- The operation, handed over with the byte `b` in the data register, is answered by a device that does not decline: the
link before it, the byte then in the data register, the code reported and the link after it. -/
inductive Exchange (p : Params) : I2cOp → Byte → Link → Byte → Byte → Link → Prop
  | start (b : Byte) (ph : I2cPhase) (d : Device) :
      Exchange p .start b ⟨ph, false, d⟩ b p.stStart ⟨.addr, true, { d with dst := .sel, stored := false }⟩
  | repStart (b : Byte) (ph : I2cPhase) (d : Device) :
      Exchange p .start b ⟨ph, true, d⟩ b p.stRepStart ⟨.addr, true, { d with dst := .sel, stored := false }⟩
  | select {b : Byte} {ea : EepromAddr} {read : Bool} {d : Device} (hb : b = selectByte ea read) (hdst : d.dst = .sel) :
      Exchange p .write b ⟨.addr, true, d⟩ b (if read then p.stMrSlaAck else p.stMtSlaAck)
        ⟨if read then .mr else .mt, true,
          { d with dptr := pointerWith (ea.extractLsb' 8 3) (lowAddress d.dptr), dst := if read then .selR else .addrW }⟩
  | address {b : Byte} {d : Device} (hdst : d.dst = .addrW) :
      Exchange p .write b ⟨.mt, true, d⟩ b p.stMtDataAck
        ⟨.mt, true, { d with dptr := pointerWith (d.dptr.extractLsb' 8 3) b, dst := .dataW, stored := false }⟩
  | data {b : Byte} {d : Device} (hdst : d.dst = .dataW) (hfirst : d.stored = false) :
      Exchange p .write b ⟨.mt, true, d⟩ b p.stMtDataAck
        ⟨.mt, true, { d with eep := Memory.write Config.eeBlank d.eep d.dptr.toNat b, stored := true }⟩
  | read (b : Byte) {d : Device} (hdst : d.dst = .selR) :
      Exchange p .readNack b ⟨.mr, true, d⟩ (Memory.read Config.eeBlank d.eep d.dptr.toNat) p.stMrDataNack
        ⟨.mrEnd, true, { d with dptr := d.dptr + 1 }⟩

section Exchange
variable {p : Params} {x : I2cOp} {b v code : Byte} {l l' : Link} {t : State}

theorem Exchange.admits (h : Exchange p x b l v code l') : admitsI2c x l.ph = true := by
  cases h <;> rfl

theorem Exchange.code_mem (h : Exchange p x b l v code l') : code ∈ p.codes := by
  cases h with
  | select => split <;> simp [Params.codes]
  | _ => simp [Params.codes]

/-- The device answers as the exchange says, and I2B ends the operation with a success. -/
theorem Exchange.answered (h : Exchange t.params x b l v code l') (hop : t.i2c.op = some x) (hdr : t.i2c.dr = b)
    (hph : t.i2c.ph = l.ph) (howned : t.i2c.owned = l.owned) (hdev : t.dev = l.dev) :
    ∃ r ev, t.deviceReply false = (.ok r, l'.dev) ∧
      SucceedsWith { t with dev := l'.dev, draws := t.draws + 1 } r x v code l'.ph ev l'.owned := by
  subst hdr
  cases h with
  | start => exact ⟨0, .start, by simp [State.deviceReply, hop, hdev], .start howned⟩
  | repStart => exact ⟨0, .repStart, by simp [State.deviceReply, hop, hdev], .repStart howned⟩
  | @select _ ea read d hb hdst =>
    have hdir : t.i2c.dr.getLsbD 0 = read := hb ▸ selectByte_direction ea read
    have hreply := deviceReply_select (declines := false) hop hph (hdev ▸ hdst) (hb ▸ selectByte_nibble ea read)
    rw [if_neg (by simp), hdir, hb, selectByte_high, hdev] at hreply
    refine ⟨0, .addr t.i2c.dr .a, hreply, ?_⟩
    rw [← howned]
    cases read with
    | false => exact .addrToWrite hph hdir
    | true => exact .addrToRead hph hdir
  | address hdst =>
    refine ⟨0, .data t.i2c.dr .a, by simp [State.deviceReply, Device.onData, hop, hph, hdev, hdst], ?_⟩
    rw [← howned]
    exact .data hph
  | data hdst hfirst =>
    refine ⟨0, .data t.i2c.dr .a, by simp [State.deviceReply, Device.onData, hop, hph, hdev, hdst, hfirst], ?_⟩
    rw [← howned]
    exact .data hph
  | @read _ d hdst =>
    refine ⟨Memory.read Config.eeBlank d.eep d.dptr.toNat, .read (Memory.read Config.eeBlank d.eep d.dptr.toNat) .n,
      by simp [State.deviceReply, Device.onRead, hop, hph, hdev, hdst], ?_⟩
    rw [← howned]
    exact .readNack hph

/-- The turn of I2B that the device answers. -/
theorem Exchange.i2bDeviceStep_eq (h : Exchange t.params x b l v code l') (hop : t.i2c.op = some x)
    (hdr : t.i2c.dr = b) (hph : t.i2c.ph = l.ph) (howned : t.i2c.owned = l.owned) (hdev : t.dev = l.dev) :
    ∃ ev, i2bDeviceStep false t = { t with
      dev := l'.dev
      draws := t.draws + 1
      i2c := { t.i2c with
        dr := v, sr := withStatus t.i2c.sr (codeBits code), ph := l'.ph, owned := l'.owned, bus := t.i2c.bus ++ [ev]
        op := none, done := true } } := by
  obtain ⟨r, ev, hreply, hsucceeds⟩ := h.answered hop hdr hph howned hdev
  refine ⟨ev, ?_⟩
  rw [i2bDeviceStep, if_neg (by simp [hop]), hreply, withStatus_codeBits]
  exact hsucceeds.i2bStep_eq hop

end Exchange

/-! ### The micro-steps that the two sequences share (R244, R246, R248) -/

/-- The issue steps of the EEPROM command. -/
def eepromIssues (s : State) : Instr → List (Nat × I2cOp × Byte)
  | .eeWrite ea data => eeWriteIssues ea data s
  | .eeRead ea _ => eeReadIssues ea s
  | _ => []

/-- The wait steps of the EEPROM command that store nothing. -/
def eepromWaits (s : State) : Instr → List (Nat × Byte)
  | .eeWrite _ _ => eeWriteWaits s
  | .eeRead _ _ => eeReadWaits s
  | _ => []

section Sequence
variable {s t : State} {k : InFlight} {i : Instr} {n : Nat} {x : I2cOp} {b c : Byte}

theorem exec_eeprom_issue (hk : s.cur = some k) (hu : k.uph = n) (hover : n = 0 → s.noOverlap i)
    (hx : (n, x, b) ∈ eepromIssues s i) :
    exec i s = i2cIssue x (s.setI2cData b) fun t => .next (t.goto k (n + 1)) := by
  cases i with
  | eeWrite ea data => exact exec_eeWrite_issue hk hu (fun hn => admission_eeWrite (hover hn)) hx
  | eeRead ea out => exact exec_eeRead_issue hk hu (fun hn => admission_eeRead (hover hn)) hx
  | _ => simp [eepromIssues] at hx

theorem exec_eeprom_wait (hk : s.cur = some k) (hu : k.uph = n) (hc : (n, c) ∈ eepromWaits s i) :
    exec i s = eepromWait c s k (n + 1) := by
  cases i with
  | eeWrite ea data => exact exec_eeWrite_wait hk hu hc
  | eeRead ea out => exact exec_eeRead_wait hk hu hc
  | _ => simp [eepromWaits] at hc

theorem eepromIssues_congr (h : t.i2c = s.i2c) : eepromIssues t i = eepromIssues s i := by
  cases i <;> simp [eepromIssues, eeWriteIssues, eeReadIssues, h]

theorem eepromWaits_congr (h : t.params = s.params) : eepromWaits t i = eepromWaits s i := by
  cases i <;> simp [eepromWaits, eeWriteWaits, eeReadWaits, h]

/-- The command begins with the address `ea`. -/
inductive Addresses (ea : EepromAddr) : Instr → Prop
  | write (data : Byte) : Addresses ea (.eeWrite ea data)
  | read (out : Addr) : Addresses ea (.eeRead ea out)

theorem Addresses.issues {ea : EepromAddr} (h : Addresses ea i) (s : State) :
    (0, .start, s.i2c.dr) ∈ eepromIssues s i ∧ (2, .write, selectByte ea false) ∈ eepromIssues s i ∧
      (4, .write, lowAddress ea) ∈ eepromIssues s i := by
  cases h <;> simp [eepromIssues, eeWriteIssues, eeReadIssues]

theorem Addresses.waits {ea : EepromAddr} (h : Addresses ea i) (s : State) :
    (1, s.params.stStart) ∈ eepromWaits s i ∧ (3, s.params.stMtSlaAck) ∈ eepromWaits s i ∧
      (5, s.params.stMtDataAck) ∈ eepromWaits s i := by
  cases h <;> simp [eepromWaits, eeWriteWaits, eeReadWaits]

end Sequence

/-! ### The turns of a round (log entry 1) -/

/-- `t` stands in a schedule that began in `s`: host memory is `m`, the link is `l` and the command in flight is `c`, and what
else the two commands read is as in `s`. -/
structure Talking (s : State) (m : Memory) (l : Link) (c : Option InFlight) (t : State) : Prop where
  params : t.params = s.params
  ctx : t.ctx = s.ctx
  suspended : s.ctx = .isr → t.fg = s.fg
  mem : t.mem = m
  en : t.i2c.en = true
  ph : t.i2c.ph = l.ph
  owned : t.i2c.owned = l.owned
  dev : t.dev = l.dev
  cur : t.cur = c

/-- An issue, an answer of the device, and a check. -/
def busRound : List Turn := [.cmd, .i2bDevice false, .cmd]

section Round
variable {s t : State} {m : Memory} {l l' : Link} {c : Option InFlight} {k : InFlight} {i : Instr} {n : Nat} {x : I2cOp}
  {b v code : Byte}

/-- The schedule does not change what a handler's command could overlap. -/
theorem Talking.noOverlap (h : Talking s m l c t) (hover : s.noOverlap i) : t.noOverlap i := fun hisr => by
  have hs : s.ctx = .isr := h.ctx ▸ hisr
  unfold State.foregroundUses
  rw [h.suspended hs]
  exact hover hs

/-- A write of the current bank. -/
theorem Talking.setBank (h : Talking s m l c t) (b : Bank) : Talking s m l b.cur (t.setBank t.ctx b) where
  params := by simp [h.params]
  ctx := by simp [h.ctx]
  suspended hisr := by rw [h.ctx, hisr, State.setBank_isr, h.suspended hisr]
  mem := by simp [h.mem]
  en := by simp [h.en]
  ph := by simp [h.ph]
  owned := by simp [h.owned]
  dev := by simp [h.dev]
  cur := by rw [State.cur, State.setBank_ctx, State.bank_setBank_self]

/-- The end of a micro-step, or the issue of a command, in the current context. -/
theorem Talking.setCur (h : Talking s m l c t) (c' : Option InFlight) : Talking s m l c' (t.setCur c') :=
  h.setBank { t.bank t.ctx with cur := c' }

theorem Talking.setRes (h : Talking s m l c t) (r : BitVec 1) : Talking s m l c (t.setRes r) :=
  h.cur ▸ h.setBank { t.bank t.ctx with res := r }

/-- An issue step hands the operation over. -/
theorem talks_issue (h : Talking s m l (some k) t) (hi : k.instr = some i) (hu : k.uph = n)
    (hover : n = 0 → s.noOverlap i) (hx : (n, x, b) ∈ eepromIssues t i) (hph : admitsI2c x l.ph = true) :
    Leads t [.cmd] fun w =>
      Talking s m l (some { k with uph := n + 1 }) w ∧ w.i2c.op = some x ∧ w.i2c.dr = b := by
  refine .cmd h.cur hi fun rest => ?_
  have hexec := exec_eeprom_issue (s := { t with turns := rest }) h.cur hu (fun hn => h.noOverlap (hover hn))
    ((eepromIssues_congr rfl).symm ▸ hx)
  have hissued : Talking s m l (some k) ({ t with turns := rest, i2c := { t.i2c with
    dr := b, op := some x, done := false } } : State) := { h with }
  exact ⟨_, hexec.trans (i2cIssue_admitted h.en (h.ph ▸ hph)), by simp, hissued.setCur _, by simp, by simp⟩

/-- The device answers the operation. -/
theorem talks_answer (h : Talking s m l c t) (hop : t.i2c.op = some x) (hdr : t.i2c.dr = b)
    (hex : Exchange s.params x b l v code l') (hwf : s.params.wf = true) :
    Leads t [.i2bDevice false] fun w =>
      Talking s m l' c w ∧ w.i2c.done = true ∧ statusCode w.i2c.sr = code ∧ w.i2c.dr = v := by
  refine .turn fun rest => ?_
  obtain ⟨ev, hstep⟩ := Exchange.i2bDeviceStep_eq (t := { t with turns := rest }) (h.params ▸ hex) hop hdr h.ph h.owned
    h.dev
  have hlow : code.toNat % 8 = 0 := low_bits_of_code hwf hex.code_mem
  exact ⟨_, congrArg Host.Outcome.next hstep, rfl, { h with ph := rfl, owned := rfl, dev := rfl }, rfl,
    (statusCode_withStatus_eq t.i2c.sr code _ hlow).mpr rfl, rfl⟩

/-- The code reported is the one that a wait step expects. -/
theorem talks_check (h : Talking s m l (some k) t) (hi : k.instr = some i) (hu : k.uph = n)
    (hc : (n, code) ∈ eepromWaits s i) (hdone : t.i2c.done = true) (hcode : statusCode t.i2c.sr = code) :
    Leads t [.cmd] (Talking s m l (some { k with uph := n + 1 })) := by
  refine .cmd h.cur hi fun rest => ?_
  have hexec := exec_eeprom_wait (s := { t with turns := rest }) h.cur hu (eepromWaits_congr h.params ▸ hc)
  have h' : Talking s m l (some k) { t with turns := rest } := { h with }
  exact ⟨_, hexec.trans (eepromWait_next.mpr (.inl ⟨hdone, hcode, rfl⟩)), by simp, h'.setCur _⟩

theorem talks_round (h : Talking s m l (some k) t) (hi : k.instr = some i) (hu : k.uph = n)
    (hover : n = 0 → s.noOverlap i) (hwf : s.params.wf = true) (hx : (n, x, b) ∈ eepromIssues t i)
    (hex : Exchange s.params x b l v code l') (hc : (n + 1, code) ∈ eepromWaits s i) :
    Leads t busRound (Talking s m l' (some { k with uph := n + 2 })) :=
  (talks_issue h hi hu hover hx hex.admits).append (us := [.i2bDevice false, .cmd]) fun _ ⟨ht, hop, hdr⟩ =>
    (talks_answer ht hop hdr hex hwf).append (us := [.cmd]) fun _ ⟨ht, hdone, hcode, _⟩ =>
      talks_check (k := { k with uph := n + 1 }) ht hi rfl hc hdone hcode

/-- The start, the select byte and the address byte: the device's pointer is the address (R241, R254). -/
theorem talks_address {ea : EepromAddr} {d : Device} {ph : I2cPhase} (h : Talking s m ⟨ph, false, d⟩ (some k) t)
    (haddr : Addresses ea i) (hi : k.instr = some i) (hu : k.uph = 0) (hover : s.noOverlap i)
    (hwf : s.params.wf = true) :
    Leads t (busRound ++ (busRound ++ busRound))
      (Talking s m ⟨.mt, true, { d with dptr := ea, dst := .dataW, stored := false }⟩ (some { k with uph := 6 })) := by
  obtain ⟨hstart, hselect, haddress⟩ := haddr.waits s
  obtain ⟨hx, -, -⟩ := haddr.issues t
  refine (talks_round h hi hu (fun _ => hover) hwf hx (.start _ _ _) hstart).append fun t ht => ?_
  obtain ⟨-, hx, -⟩ := haddr.issues t
  refine (talks_round (k := { k with uph := 2 }) ht hi rfl (fun h => nomatch h) hwf hx
    (.select (read := false) rfl rfl) hselect).append fun t ht => ?_
  obtain ⟨-, -, hx⟩ := haddr.issues t
  have hround := talks_round (k := { k with uph := 4 }) ht hi rfl (fun h => nomatch h) hwf hx (.address rfl) haddress
  simpa only [pointerWith_high, pointerWith_parts] using hround

/-- The stop that ends a sequence leaves the memory of the device as it is. -/
theorem talks_stop (h : Talking s m l (some k) t) (hi : k.instr = some i)
    (hexec : ∀ u : State, u.cur = some k → exec i u = eepromFinish u) :
    Leads t [.cmd] fun w => (w.bank s.ctx).res = 0 ∧
      ∃ d, d.eep = l.dev.eep ∧ Talking s m ⟨.idle, false, d⟩ none w := by
  refine .cmd h.cur hi fun rest => ?_
  have hstopped : Talking s m ⟨.idle, false, if t.i2c.owned then t.dev.stopped t.draws else t.dev⟩ (some k)
      ({ t with turns := rest } : State).stopStep := { h with ph := rfl, owned := rfl, dev := rfl }
  have hends : CompletesResult { t with turns := rest } _ 0 :=
    SameControl.completesResult (u := ({ t with turns := rest } : State).stopStep) ⟨rfl⟩ 0
  refine ⟨_, hexec { t with turns := rest } h.cur, by simp, ?_, _, ?_, (hstopped.setRes _).setCur none⟩
  · rw [← h.ctx]
    exact congrArg Bank.res hends
  · rw [← h.dev]
    split <;> rfl

end Round

/-! ### The two sequences (R244, R246, R255) -/

/-- The schedule of `EE_WRITE`: the address, the byte, and the stop. -/
theorem writeTurns_eq : (List.replicate 4 busRound).flatten ++ [Turn.cmd] =
    (busRound ++ (busRound ++ busRound)) ++ (busRound ++ [Turn.cmd]) := rfl

/-- The schedule of `EE_READ`: the address, the repeated start and its select byte, the byte read turn by turn, and the
stop. -/
theorem readTurns_eq : (List.replicate 6 busRound).flatten ++ [Turn.cmd] =
    (busRound ++ (busRound ++ busRound)) ++ (busRound ++ (busRound ++
      ([Turn.cmd] ++ ([Turn.i2bDevice false] ++ ([Turn.cmd] ++ [Turn.cmd]))))) := rfl

section Sequences
variable {s t : State} {k : InFlight} {ea : EepromAddr} {data : Byte} {out : Addr} {d : Device}

/-- `EE_WRITE` stores the byte in the device (R244, R254). -/
theorem talks_write (h : Talking s s.mem ⟨.idle, false, d⟩ (some k) t) (hi : k.instr = some (.eeWrite ea data))
    (hu : k.uph = 0) (hover : s.noOverlap (.eeWrite ea data)) (hwf : s.params.wf = true) :
    Leads t ((List.replicate 4 busRound).flatten ++ [Turn.cmd]) fun w =>
      (w.bank s.ctx).res = 0 ∧ ∃ d', d'.eep = Memory.write Config.eeBlank d.eep ea.toNat data ∧
        Talking s s.mem ⟨.idle, false, d'⟩ none w := by
  rw [writeTurns_eq]
  refine (talks_address h (.write data) hi hu hover hwf).append fun t ht => ?_
  refine (talks_round (k := { k with uph := 6 }) (b := data) ht hi rfl (fun h => nomatch h) hwf
    (by simp [eepromIssues, eeWriteIssues]) (.data rfl rfl) (by simp [eepromWaits, eeWriteWaits])).append fun t ht => ?_
  exact talks_stop ht hi fun u hk => exec_eeWrite_finish hk rfl

/-- The store of `EE_READ`, and the check of the last code (R246). -/
theorem talks_store {l : Link} (h : Talking s s.mem l (some k) t) (hi : k.instr = some (.eeRead ea out))
    (hu : k.uph = 11) (hfree : s.storeFree out.toNat) (hdone : t.i2c.done = true)
    (hcode : statusCode t.i2c.sr = s.params.stMrDataNack) :
    Leads t [.cmd]
      (Talking s (Memory.write Config.memBlank s.mem out.toNat t.i2c.dr) l (some { k with uph := 12 })) := by
  refine .cmd h.cur hi fun rest => ?_
  have hfree' : ({ t with turns := rest } : State).storeFree out.toNat := fun hisr => by
    have hs : s.ctx = .isr := h.ctx ▸ hisr
    exact (inBuffer_of_mem h.mem _ _).trans (h.suspended hs ▸ hfree hs)
  have hexec := ((exec_eeRead_store (ea := ea) (out := out) (s := { t with turns := rest }) h.cur hu).trans
    (holdUntil_open hdone)).trans (storeByte_free (Nat.le_of_lt_succ out.isLt) hfree')
  have hstored : Talking s (Memory.write Config.memBlank s.mem out.toNat t.i2c.dr) l (some k)
      (({ t with turns := rest } : State).writeMem out.toNat t.i2c.dr) :=
    { h with mem := by rw [← h.mem]; rfl }
  exact ⟨_, hexec.trans (checkStatus_next.mpr (.inl ⟨hcode.trans (h.params ▸ rfl), rfl⟩)), by simp, hstored.setCur _⟩

/-- `EE_READ` stores the byte of the device in host memory (R246, R254). -/
theorem talks_read (h : Talking s s.mem ⟨.idle, false, d⟩ (some k) t) (hi : k.instr = some (.eeRead ea out))
    (hu : k.uph = 0) (hover : s.noOverlap (.eeRead ea out)) (hwf : s.params.wf = true)
    (hfree : s.storeFree out.toNat) :
    Leads t ((List.replicate 6 busRound).flatten ++ [Turn.cmd]) fun w =>
      (w.bank s.ctx).res = 0 ∧ ∃ d', d'.eep = d.eep ∧
        Talking s (Memory.write Config.memBlank s.mem out.toNat (Memory.read Config.eeBlank d.eep ea.toNat))
          ⟨.idle, false, d'⟩ none w := by
  rw [readTurns_eq]
  refine (talks_address h (.read out) hi hu hover hwf).append fun t ht => ?_
  refine (talks_round (k := { k with uph := 6 }) (b := t.i2c.dr) ht hi rfl (fun h => nomatch h) hwf
    (by simp [eepromIssues, eeReadIssues]) (.repStart _ _ _) (by simp [eepromWaits, eeReadWaits])).append fun t ht => ?_
  refine (talks_round (k := { k with uph := 8 }) (b := selectByte ea true) ht hi rfl (fun h => nomatch h) hwf
    (by simp [eepromIssues, eeReadIssues]) (.select (ea := ea) (read := true) rfl rfl)
    (by simp [eepromWaits, eeReadWaits])).append fun t ht => ?_
  simp only [pointerWith_parts, if_true] at ht
  refine (talks_issue (k := { k with uph := 10 }) (b := t.i2c.dr) (x := .readNack) ht hi rfl (fun h => nomatch h)
    (by simp [eepromIssues, eeReadIssues]) rfl).append fun t ⟨ht, hop, hdr⟩ => ?_
  refine (talks_answer ht hop hdr (.read _ rfl) hwf).append fun t ⟨ht, hdone, hcode, hdr⟩ => ?_
  refine (talks_store (k := { k with uph := 11 }) ht hi rfl hfree hdone hcode).append fun t ht => ?_
  rw [hdr] at ht
  exact talks_stop ht hi fun u hk => exec_eeRead_finish hk rfl

theorem instr_issued (i : Instr) : (InFlight.issued (encode i)).instr = some i := by
  simp [InFlight.instr, InFlight.issued, decode_encode]

/-- HOST issues `EE_READ`. -/
theorem talks_host_issue {m : Memory} {l : Link} (h : Talking s m l none t) (hover : s.noOverlap (.eeRead ea out)) :
    Leads t [.issue s.ctx (encode (.eeRead ea out))]
      (Talking s m l (some (InFlight.issued (encode (.eeRead ea out))))) := by
  refine .turn fun rest => ?_
  have h' : Talking s m l none { t with turns := rest } := { h with }
  have hissue := issueAnswers_admission (i := .eeRead ea out) h'.cur rfl
  rw [admission_eeRead (h'.noOverlap hover)] at hissue
  exact ⟨_, h.ctx ▸ hissue, by simp, h'.setCur _⟩

end Sequences

/-- Settles O45: the sequence of the write, the issue of the read, and the sequence of the read. -/
theorem eepromReadsBackWhatWasWritten : Obligations.EepromReadsBackWhatWasWritten := by
  rintro s k ea data out ⟨hk, hi, hu⟩ hover hfree hwf hmem heep - hen hph howned
  have hbegin : Talking s s.mem ⟨.idle, false, s.dev⟩ (some k) s :=
    ⟨rfl, rfl, fun _ => rfl, rfl, hen, hph, howned, rfl, hk⟩
  obtain ⟨t, hwrites, hres, d, hd, ht⟩ := (talks_write hbegin hi hu hover hwf).runs
  have hread : s.noOverlap (.eeRead ea out) := hover
  obtain ⟨u, hreads, hres', d', hd', hu'⟩ := ((talks_host_issue ht hread).append fun v hv =>
    talks_read hv (instr_issued _) rfl hread hwf hfree).runs
  have hbyte : Memory.read Config.eeBlank d.eep ea.toNat = data := hd ▸ Memory.read_write_same heep ea.toNat data
  have hstored : u.mem = (t.writeMem out.toNat data).mem := by rw [hu'.mem, hbyte, State.writeMem_mem, ht.mem]
  refine ⟨t, u, hwrites, hres, ht.cur, sameMemory_of_mem ht.mem, fun b => ?_, hreads, hres', hu'.cur,
    readMem_of_store (ht.mem.symm ▸ hmem) hstored, sameMemoryBut_of_store hstored, fun b => ?_⟩
  · rw [ht.dev, hd]
    by_cases hb : b = ea.toNat
    · rw [if_pos hb, hb, Memory.read_write_same heep]
    · rw [if_neg hb, Memory.read_write_other _ _ _ hb]
  · rw [hu'.dev, ht.dev]
    exact congrArg (Memory.read Config.eeBlank · b) hd'

end Sys2Proof.Proofs
end

section
/-!
PROOFS. HOST's issue of a command word (60_exceptions.md rules R278 to R280): the context it is issued in, the overlap with a
suspended foreground command, and what the transfer classes of R278 make of it.
-/

namespace Sys2Proof.Proofs

open Sys2Proof Sys2Proof.Machine

/-! ### The context of an issue (R280) -/

section Issue
variable {s : State} {c : Ctx} {w : Word}

theorem hostIssue_busy (h : ¬ (s.ctx = c ∧ (s.bank c).cur = none)) : hostIssue c w s = .refused .issueWhileBusy :=
  if_neg h

theorem hostIssue_illegal (hctx : s.ctx = c) (hcur : (s.bank c).cur = none) (hw : legalCommand w = none) :
    hostIssue c w s = .refused .illegalCommand := by
  rw [hostIssue, require, if_pos ⟨hctx, hcur⟩, hw]

end Issue

/-- Settles O7: the two refusals, and what an accepted issue puts in flight. -/
theorem issueDiscipline : Obligations.IssueDiscipline := by
  intro s c w rest hturns
  rw [step_cons hturns]
  refine ⟨fun _ hbusy => hostIssue_busy (s := { s with turns := rest }) hbusy,
    hostIssue_illegal (s := { s with turns := rest }), fun t ht => ?_⟩
  obtain ⟨hctx, hcur, -, -, -, rfl⟩ := hostIssue_next.mp ht
  exact ⟨hctx, hcur, .issued w, rfl, rfl, rfl⟩

/-! ### The transfer classes, and the overlap with the suspended command (R278) -/

section Overlap
variable {s : State} {i j : Instr} {k : InFlight}

/-- The classes that the model gives a command are the ones whose members R278 lists. -/
theorem mnemonic_mem_transferClassMembers (i : Instr) (c : TransferClass) :
    (rowOf i).mnemonic ∈ transferClassMembers c ↔ c ∈ transferClasses i := by
  cases c with
  | uartTx | uartRx | spi | i2c => cases i <;> simp [rowOf, transferClassMembers, transferClasses]

theorem sharesClass_iff :
    sharesClass i j = true ↔
      ∃ c, (rowOf i).mnemonic ∈ transferClassMembers c ∧ (rowOf j).mnemonic ∈ transferClassMembers c := by
  simp [sharesClass, mnemonic_mem_transferClassMembers]

theorem foregroundUses_inFlight (hfg : s.fg.cur = some k) (hd : decode k.word = .ok j) :
    s.foregroundUses i = sharesClass i j := by
  simp [State.foregroundUses, hfg, InFlight.instr, hd]

theorem foregroundUses_free (hfg : s.fg.cur = none) : s.foregroundUses i = false := by
  rw [State.foregroundUses, hfg]

theorem noOverlap_of_fg (hctx : s.ctx = .fg) : s.noOverlap i := fun hisr => by
  simp [hctx] at hisr

/-- An overlap is refused before the unit and its mode are asked (log entry 8). -/
theorem admission_overlap (hwf : i.wellFormed = true) (hctx : s.ctx = .isr) (huses : s.foregroundUses i = true) :
    admission s i = some .overlap := by
  rw [admission, admissionIn, if_neg (by simp [hwf]), if_pos ⟨hctx, huses⟩]

/-- With the current context free, HOST's issue of a legal command that its unit and mode do not refuse puts it in flight
where it overlaps nothing. -/
theorem issueAnswers_accepted (hcur : s.cur = none) (hwf : i.wellFormed = true) (hmode : modeRefusal s.ctx s i = none)
    (hover : s.noOverlap i) : issueAnswers s i none :=
  hmode ▸ issueAnswers_mode hcur hwf hover

/-- HOST's issue in a handler of a command that its unit and mode do not refuse, by the classes that it shares with the
suspended one. -/
theorem issueAnswers_suspended (hcur : s.cur = none) (hwf : i.wellFormed = true) (hmode : modeRefusal s.ctx s i = none)
    (hctx : s.ctx = .isr) (hfg : s.fg.cur = some k) (hd : decode k.word = .ok j) :
    issueAnswers s i (if sharesClass i j = true then some .overlap else none) := by
  have huses : s.foregroundUses i = sharesClass i j := foregroundUses_inFlight hfg hd
  split
  next hshares => exact admission_overlap hwf hctx (huses.trans hshares) ▸ issueAnswers_admission hcur hwf
  next hshares =>
    exact issueAnswers_accepted hcur hwf hmode fun _ => huses.trans (Bool.eq_false_iff.mpr hshares)

/-- A command of the I2C class is of no other, so that it shares a class with the I2C class's members only. -/
theorem sharesClass_i2c (hi : .i2c ∈ transferClasses i) : sharesClass i j = true ↔ .i2c ∈ transferClasses j := by
  have hclasses : transferClasses i = [.i2c] := by
    cases i with
    | i2cInit | i2cStart | i2cWrite | i2cRdack | i2cRdnack | i2cStop | i2cStatus | eeInit | eeWrite | eeRead => rfl
    | _ => simp [transferClasses] at hi
  simp [sharesClass, hclasses]

end Overlap

/-- Settles O10: an issue that no unit or mode refuses is answered by the classes it shares with the suspended command,
and no mode refuses a command of the I2C class. -/
theorem overlapIsRefused : Obligations.OverlapIsRefused := by
  refine ⟨fun s i hcur hwf hmode => ⟨?_, ?_, fun k j hctx hfg hd => ?_⟩, fun s i hcur hwf hmem => ?_⟩
  · exact fun hctx => issueAnswers_accepted hcur hwf hmode (noOverlap_of_fg hctx)
  · exact fun _ hfg => issueAnswers_accepted hcur hwf hmode fun _ => foregroundUses_free hfg
  · have hissue := issueAnswers_suspended hcur hwf hmode hctx hfg hd
    refine ⟨fun hshared => ?_, fun hapart => ?_⟩
    · rwa [if_pos (sharesClass_iff.mpr hshared)] at hissue
    · rwa [if_neg (sharesClass_iff.not.mpr (not_exists.mpr hapart))] at hissue
  · have hi : .i2c ∈ transferClasses i := (mnemonic_mem_transferClassMembers i .i2c).mp hmem
    have hmode : modeRefusal s.ctx s i = none := modeRefusal_i2c s.ctx s hi
    refine ⟨fun hctx => issueAnswers_accepted hcur hwf hmode (noOverlap_of_fg hctx),
      fun _ hfg => issueAnswers_accepted hcur hwf hmode fun _ => foregroundUses_free hfg, fun k j hctx hfg hd => ?_⟩
    simpa only [sharesClass_i2c hi, mnemonic_mem_transferClassMembers] using
      issueAnswers_suspended hcur hwf hmode hctx hfg hd

end Sys2Proof.Proofs
end

section
/-!
PROOFS. Taking an interrupt and the return from its handler (60_exceptions.md rules R266 to R275, R297): when IRQ dispatches
a source and when its turn passes, that an order without cycles leaves a source to take, and `IRET`.
-/

namespace Sys2Proof.Proofs

open Sys2Proof Sys2Proof.Machine

/-! ### The source that `IRQ_ORDER` lets a dispatch take (R266, R269; log entry 33) -/

section Order
variable {s : State} {p : Params}

/-- The pending conditions as R266 writes them, source by source. -/
theorem pending_iff {pending : IrqSource → Prop} (htx : pending .uartTx ↔ s.uart.txie = true ∧ s.uart.txe = true)
    (hrx : pending .uartRx ↔ s.uart.rxie = true ∧ s.uart.rxc = true)
    (htc : pending .spiTc ↔ s.spi.ie = true ∧ s.spi.tc = true) (src : IrqSource) :
    pending src ↔ s.pending src = true := by
  cases src with
  | uartTx => simpa [State.pending] using htx
  | uartRx => simpa [State.pending] using hrx
  | spiTc => simpa [State.pending] using htc

theorem mem_sources (o : IrqSource) : o ∈ [IrqSource.uartTx, .uartRx, .spiTc] := by
  cases o <;> decide

theorem all_sources_iff (f : IrqSource → Bool) : [IrqSource.uartTx, .uartRx, .spiTc].all f = true ↔ ∀ o, f o = true :=
  List.all_eq_true.trans (forall_congr' fun o => by simp only [mem_sources, forall_const])

/-- Of any four sources two are the same: there are three (R265). -/
theorem sources_repeat (a b c d : IrqSource) : ¬ [a, b, c, d].Nodup := fun hnodup => by
  have hlength := (hnodup.subperm fun o _ => mem_sources o).length_le
  simp at hlength

/-- An order is one without a cycle of one, two or three sources. -/
theorem orderWf_iff :
    p.orderWf = true ↔
      (∀ a, (a, a) ∉ p.irqFirst) ∧ (∀ a b, (a, b) ∈ p.irqFirst → (b, a) ∉ p.irqFirst) ∧
        ∀ a b c, (a, b) ∈ p.irqFirst → (b, c) ∈ p.irqFirst → (c, a) ∉ p.irqFirst := by
  simp only [Params.orderWf, Params.takesFirst, all_sources_iff, Bool.and_eq_true, Bool.not_eq_true',
    Bool.and_eq_false_imp, List.contains_eq_mem, decide_eq_true_eq, decide_eq_false_iff_not, and_imp, forall_and]

/-- Under an order without cycles a pending source is left to take: else, going from a pending source to one taken before
it, and so on, the fourth source would be one of the first three. -/
theorem exists_first {pending : IrqSource → Prop} (hwf : p.orderWf = true) (h : ∃ o, pending o) :
    ∃ src, pending src ∧ ∀ o, pending o → (o, src) ∉ p.irqFirst := by
  obtain ⟨hself, htwo, hthree⟩ := orderWf_iff.mp hwf
  by_contra hnone
  have hbefore (src : IrqSource) (hsrc : pending src) : ∃ o, pending o ∧ (o, src) ∈ p.irqFirst := by
    simpa using fun hfirst => hnone ⟨src, hsrc, hfirst⟩
  obtain ⟨a, ha⟩ := h
  obtain ⟨b, hb, hba⟩ := hbefore a ha
  obtain ⟨c, hc, hcb⟩ := hbefore b hb
  obtain ⟨d, -, hdc⟩ := hbefore c hc
  refine sources_repeat a b c d ?_
  have hne {x y : IrqSource} (hyx : (y, x) ∈ p.irqFirst) : x ≠ y := fun h => hself y (h ▸ hyx)
  have hac : a ≠ c := fun h => htwo b a hba (h ▸ hcb)
  have hbd : b ≠ d := fun h => htwo c b hcb (h ▸ hdc)
  have had : a ≠ d := fun h => hthree c b a hcb hba (h ▸ hdc)
  simp [hne hba, hne hcb, hne hdc, hac, hbd, had]

end Order

/-! ### The dispatch, and the turn that passes (R270, R272, R273, R297) -/

section Dispatch
variable {s : State} {src : IrqSource} {honoured : Bool}

theorem irqStep_dispatches (hctx : s.ctx = .fg) (hmay : s.mayTake src = true) :
    irqStep src honoured s = takeInterrupt src honoured s := if_pos ⟨hctx, hmay⟩

theorem irqStep_passes (h : ¬ (s.ctx = .fg ∧ s.mayTake src = true)) : irqStep src honoured s = .next s := if_neg h

/-- A dispatch that finds no reference enters and leaves the handler in the one step (R273). -/
theorem takeInterrupt_empty (hslot : s.slot src = none) :
    takeInterrupt src honoured s = .next { s with cbLog := s.cbLog ++ [(src, none)] } := by
  rw [takeInterrupt, hslot]

theorem takeInterrupt_enters (hslot : s.slot src ≠ none) :
    takeInterrupt src true s = .next { s with cbLog := s.cbLog ++ [(src, s.slot src)], ctx := .isr } := by
  obtain ⟨f, hf⟩ := Option.ne_none_iff_exists'.mp hslot
  simp [takeInterrupt, require, hf]

/-- The host no longer honours the reference (R297; log entry 18). -/
theorem takeInterrupt_lifetime (hslot : s.slot src ≠ none) :
    takeInterrupt src false s = .refused .callbackLifetime := by
  obtain ⟨f, hf⟩ := Option.ne_none_iff_exists'.mp hslot
  simp [takeInterrupt, require, hf]

end Dispatch

/-- Settles O11: a source with none pending before it is dispatched by what its slot holds, and an order without cycles
leaves one. -/
theorem dispatchReadsTheSlot : Obligations.DispatchReadsTheSlot := by
  intro s pending htx hrx htc
  have hpending := pending_iff htx hrx htc
  refine ⟨fun rest src honoured hturns hctx hsrc hfirst v hv => ?_, exists_first⟩
  have hmay : s.mayTake src = true :=
    (s.mayTake_iff src).mpr ⟨(hpending src).mp hsrc, fun o ho => hfirst o ((hpending o).mpr ho)⟩
  have hstep : step s = takeInterrupt src honoured { s with turns := rest } :=
    (step_cons hturns).trans (irqStep_dispatches (s := { s with turns := rest }) hctx hmay)
  obtain rfl : v = State.slot { s with turns := rest } src := hv.trans (by cases src <;> rfl)
  refine ⟨fun hempty => hstep.trans (takeInterrupt_empty hempty), ?_, ?_⟩
  · rintro hslot rfl
    exact hstep.trans (takeInterrupt_enters hslot)
  · rintro hslot rfl
    exact hstep.trans (takeInterrupt_lifetime hslot)

/-- Settles O12: each of the three hindrances is one to the guard of IRQ. -/
theorem dispatchIsMasked : Obligations.DispatchIsMasked := by
  intro s pending rest src honoured htx hrx htc hturns hmasked
  have hpending := pending_iff htx hrx htc
  refine (step_cons hturns).trans (irqStep_passes (s := { s with turns := rest }) fun ⟨hctx, hmay⟩ => ?_)
  obtain ⟨hsrc, hfirst⟩ := (State.mayTake_iff _ src).mp hmay
  obtain hisr | hidle | ⟨o, ho, hbefore⟩ := hmasked
  · exact Ctx.noConfusion (hisr.symm.trans hctx)
  · exact hidle ((hpending src).mpr hsrc)
  · exact hfirst o ((hpending o).mp ho) hbefore

/-! ### `IRET` (R275) -/

section Iret
variable {s : State} {k : InFlight}

/-- `IRET` is in no transfer class, so that the context alone decides. -/
theorem admission_iret : admission s .iret = if s.ctx = .fg then some .iretOutsideHandler else none := by
  rw [admission_of_noOverlap rfl (noOverlap_of_transferClasses rfl)]
  cases hctx : s.ctx <;> simp [modeRefusal]

theorem exec_iret (hk : s.cur = some k) (hu : k.uph = 0) (hctx : s.ctx = .isr) :
    exec .iret s = .next s.returnFromHandler := by
  cases k
  cases hu
  exact microStep_run hk fun _ => admission_iret.trans (if_neg (by simp [hctx]))

/-- The handler's bank is the one that its command in flight is freed in. -/
theorem returnFromHandler_eq (hctx : s.ctx = .isr) :
    s.returnFromHandler = { s with ctx := .fg, isr := { s.isr with cur := none } } := by
  rw [State.returnFromHandler, State.complete, State.setCur, hctx, State.setBank_isr, State.bank_isr]

end Iret

/-- Settles O13: the one micro-step in each context, and the issue. -/
theorem iretReturns : Obligations.IretReturns := by
  refine fun s k => ⟨?_, ?_, fun hcur => ?_⟩
  · rintro ⟨hk, -, hu⟩ hctx
    rw [exec_iret hk hu hctx, returnFromHandler_eq hctx]
  · rintro ⟨hk, -, hu⟩ hctx
    exact microStep_refused hk hu (admission_iret.trans (if_pos hctx))
  · exact admission_iret (s := s) ▸ issueAnswers_admission hcur rfl

end Sys2Proof.Proofs
end
